-- ==== Sys2Proof/Word.lean ====
section
/-! DEFINITION. The sizes of the hardware's data: bytes, 32-bit words, the 64-bit count, the five-word
register group. Rules R5, R7 (spec/00_scope.md). -/

namespace Sys2Proof

/-- `u8` of R7: a message byte, a byte of BUF. -/
abbrev Byte := BitVec 8

/-- `u32` of R7: WORD_BITS = 32 (R5); also the width of a command word (R5, R48). -/
abbrev Word := BitVec 32

/-- `u64` of R7: BYTECOUNT (R23) and the length field L (R64). -/
abbrev Dword := BitVec 64

/-- Five `u32` words: HASH_WORDS = 5 of R5. The type of the state register file H0..H4 (R13), of
DIGEST0..DIGEST4 (R27) and of the working registers a, b, c, d, e (R26). -/
structure Words5 where
  w0 : Word
  w1 : Word
  w2 : Word
  w3 : Word
  w4 : Word
  deriving DecidableEq, Repr

end Sys2Proof
end

