-- ==== Sys2Proof/Syntax.lean ====
section
/-! DEFINITION. The commands of the core: one constructor for each row of spec/opcode_table.json
(R48, R49, R50). A word that decodes to ILLEGAL (R52) is no command; it is met in `acceptCommand`. -/

namespace Sys2Proof

/-- The commands of R49. DATA is the only operand field, and only UPDATE has it (R50). -/
inductive Instr where
  /-- NOP, OPCODE 0x00: no effect (R83). -/
  | nop
  /-- INIT, OPCODE 0x01: start a new computation (R84). -/
  | init
  /-- UPDATE, OPCODE 0x02: append the message byte `data` (R62). -/
  | update (data : Byte)
  /-- FINALIZE, OPCODE 0x03: end of message (R63). -/
  | finalize
  /-- ABORT, OPCODE 0x04: the byte source failed (R85). -/
  | abort
  deriving DecidableEq, Repr

end Sys2Proof
end

