-- ==== Sys2Proof/WellFormed.lean ====
section
/-! DEFINITION. What a legal command word looks like, said of its three fields and apart from the
decoder (R48 to R51), and the check on commands. -/

namespace Sys2Proof

/-- The three fields of format CMD (R48): OPCODE [7:0], DATA [15:8], RSVD [31:16]. -/
structure CmdFields where
  opcode : Byte
  data   : Byte
  rsvd   : BitVec 16
  deriving DecidableEq, Repr

/-- "RSVD … must be 0x0000 for every opcode" (R51). -/
def CmdFields.rsvdClear (f : CmdFields) : Bool := f.rsvd == 0

/-- DATA is the message byte for UPDATE and "must be 0 for every other opcode" (R48, R50). -/
def CmdFields.dataAllowed (f : CmdFields) : Bool := f.opcode == 0x02 || f.data == 0

/-- "0x05..0xFF (reserved)" (R49). -/
def CmdFields.opcodeDefined (f : CmdFields) : Bool := f.opcode.toNat < 5

/-- The three checks together: the fields of the legal words that R52 lists. -/
def CmdFields.wellFormed (f : CmdFields) : Bool :=
  f.rsvdClear && f.dataAllowed && f.opcodeDefined

/-- The check on a command. UPDATE's operand is a `u8` by its type (R50), and the other four have no
operand, so no term of `Instr` is ill-formed; what can be ill-formed is a word's fields (above) and a
line of assembler text (`SourceLine.wellFormed`, R55). -/
def Instr.wellFormed : Instr → Bool
  | .nop => true
  | .init => true
  | .update _ => true
  | .finalize => true
  | .abort => true

end Sys2Proof
end

