-- ==== Sys2Proof/Decode.lean ====
section
/-! DEFINITION. The decoder of R52, total on every 32-bit word, and the encoder of R49, R50 and R55. -/

namespace Sys2Proof

/-- The fields of a command word: `cmd[7:0]`, `cmd[15:8]`, `cmd[31:16]` (R48). -/
def fieldsOf (w : Word) : CmdFields :=
  { opcode := w.extractLsb' 0 8, data := w.extractLsb' 8 8, rsvd := w.extractLsb' 16 16 }

/-- The word that holds the fields: RSVD ‖ DATA ‖ OPCODE (R48). -/
def wordOf (f : CmdFields) : Word := f.rsvd ++ f.data ++ f.opcode

/-- Why a word decodes to ILLEGAL (R53). The names are the model's: the hardware records none of them,
only the cause ILLEGAL_COMMAND (R99). -/
inductive IllegalReason where
  /-- RSVD ≠ 0 (R51). -/
  | reservedBitsSet
  /-- DATA ≠ 0 with an opcode other than UPDATE's (R50). -/
  | dataNotZero
  /-- OPCODE in 0x05..0xFF (R49). -/
  | reservedOpcode
  deriving DecidableEq, Repr

/-- The six outcomes of R52: five commands, or ILLEGAL. -/
inductive Decoded where
  | legal (i : Instr)
  | illegal (why : IllegalReason)
  deriving DecidableEq, Repr

/-- R52's chain of cases, on the three fields. -/
def decodeFields (f : CmdFields) : Decoded :=
  if f.rsvd ≠ 0 then .illegal .reservedBitsSet
  else if f.opcode = 0x02 then .legal (.update f.data)
  else if f.data ≠ 0 then .illegal .dataNotZero
  else if f.opcode = 0x00 then .legal .nop
  else if f.opcode = 0x01 then .legal .init
  else if f.opcode = 0x03 then .legal .finalize
  else if f.opcode = 0x04 then .legal .abort
  else .illegal .reservedOpcode

/-- `decode` of R52. -/
def decode (w : Word) : Decoded := decodeFields (fieldsOf w)

/-- The command a word decodes to, and none where it is ILLEGAL. -/
def Decoded.instr? : Decoded → Option Instr
  | .legal i => some i
  | .illegal _ => none

/-- The host's question: the command that the decoder reads from a table row's bits. Every command is
one 32-bit word (R54), so the bits above `nbits` are 0 and no bit above 31 exists. -/
def decodeTableWord (nbits w : Nat) : Option Instr :=
  (decode (BitVec.ofNat 32 (w % 2 ^ nbits))).instr?

/-- Each command's fields: its OPCODE of R49, with DATA and RSVD zero but for UPDATE's DATA (R50, R51). -/
def Instr.fields : Instr → CmdFields
  | .nop => { opcode := 0x00, data := 0x00, rsvd := 0x0000 }
  | .init => { opcode := 0x01, data := 0x00, rsvd := 0x0000 }
  | .update d => { opcode := 0x02, data := d, rsvd := 0x0000 }
  | .finalize => { opcode := 0x03, data := 0x00, rsvd := 0x0000 }
  | .abort => { opcode := 0x04, data := 0x00, rsvd := 0x0000 }

/-- The word of a command (R55: `UPDATE v` is `(v << 8) | 0x02`, the others their OPCODE). -/
def encode (i : Instr) : Word := wordOf i.fields

end Sys2Proof
end

