-- ==== Sys2Proof/Machine/State.lean ====
section
/-! DEFINITION. The state of the core (spec/10_state.md), the HOST's drive of its input ports, the
reasons a step can stop, and the state right after RESET (R33, R113). -/

namespace Sys2Proof.Machine

/-- PHASE, a 2-bit register (R16). -/
inductive Phase where
  /-- Code 0: no computation started since reset. -/
  | idle
  /-- Code 1: a computation is in progress; bytes are accepted. -/
  | streaming
  /-- Code 2: the digest is complete and DIGEST is valid. -/
  | finalized
  /-- Code 3: the computation ended with an error; no digest. -/
  | aborted
  deriving DecidableEq, Repr

/-- JOB, a 2-bit register: the ENGINE's pending work (R17). -/
inductive Job where
  /-- Code 0: no block waits to be compressed. -/
  | idle
  /-- Code 1: BUF holds a full block of message bytes. -/
  | data
  /-- Code 2: BUF holds the first of two final blocks. -/
  | padMore
  /-- Code 3: BUF holds the final block. -/
  | padLast
  deriving DecidableEq, Repr

/-- CAUSE, a 3-bit register (R19). Its reserved codes 4 to 7 are "never written by this hardware" and
have no constructor, so no state holds one (spec/93_implementation_defined.md I7). -/
inductive Cause where
  /-- Code 0: no error recorded. -/
  | none
  /-- Code 1: ABORT in STREAMING (R98). -/
  | sourceReadError
  /-- Code 2: a word that decodes to ILLEGAL (R99). -/
  | illegalCommand
  /-- Code 3: a command that the PHASE does not accept (R100). -/
  | sequenceError
  deriving DecidableEq, Repr

/-- What the HOST drives on the core's two input ports (R30) during one turn: a command word on CMD, or
none presented, and RESET. DESIGN CHOICE (log 1): the ports' values come turn by turn from a list. -/
structure HostDrive where
  cmd   : Option Word
  reset : Bool
  deriving DecidableEq, Repr

/-- Every piece of state the spec gives the core. `none` in `digest` is the spec's own ⊥, "no value", which
RESET and INIT write to DIGEST (R27, R84, R113). H, BUF, FILL and BYTECOUNT hold a value always; where the
spec holds one of them at ⊥ the value is the model's, and no run shows it (log 3; `State.SameButBottom`).
W, a..e and t exist "only inside one ENGINE step" (R25, R26), so no field holds them. -/
structure State where
  /-- H0..H4, the state register file (R13). -/
  h         : Words5
  /-- PHASE (R16). -/
  phase     : Phase
  /-- JOB (R17). -/
  job       : Job
  /-- CAUSE (R19). -/
  cause     : Cause
  /-- BUF[0]..BUF[63], the block buffer (R21). -/
  buf       : Vector Byte 64
  /-- FILL, 7 bits, legal values 0..64 (R22). -/
  fill      : BitVec 7
  /-- BYTECOUNT, 64 bits (R23). -/
  byteCount : Dword
  /-- DIGEST0..DIGEST4 (R27). Every rule that writes it writes all five (log 4). -/
  digest    : Option Words5
  /-- The model's own field, not the spec's: what the HOST drives on CMD and RESET in this and the
  following turns (R30; log 1). Past its end the HOST presents nothing. -/
  host      : List HostDrive
  deriving DecidableEq, Repr

/-- Why the machine can stop. No state that RESET can lead to does: see `State.Inv` (R22). -/
inductive Fault where
  /-- UPDATE or FINALIZE with FILL ≥ 64 while JOB = IDLE: there is no byte BUF[FILL] (R21), and R22 calls
  such a FILL no legal state. Raised by `atFill`. Safe. -/
  | bufferIndex
  deriving DecidableEq, Repr

/-- Why a command has no meaning. No arm of `exec` answers it: every row of the table is modelled. -/
inductive Refusal where
  /-- The command of that mnemonic is not modelled yet. Safe. -/
  | notModelled (mnemonic : String)
  deriving DecidableEq, Repr

/-- What a transition of the core answers. -/
abbrev Result := Host.Outcome State Fault Refusal

/-- The state right after RESET (R33, R113), with a HOST that presents nothing. DESIGN CHOICE (log 3): H,
BUF, FILL and BYTECOUNT, to which R33 gives ⊥, hold zero. -/
def State.reset : State :=
  { h := ⟨0, 0, 0, 0, 0⟩, phase := .idle, job := .idle, cause := .none, buf := Vector.replicate 64 0,
    fill := 0, byteCount := 0, digest := none, host := [] }

end Sys2Proof.Machine
end

