-- ==== Sys2Proof/Machine/Flags.lean ====
section
/-! DEFINITION. The outputs and status bits, each a function of the state: READY, BUSY, DVALID, PEND,
STATUS and the DIGEST ports (R18, R24, R27 to R31), and the codes of PHASE, JOB and CAUSE. -/

namespace Sys2Proof.Machine

/-- The PHASE codes of R16. -/
def Phase.code : Phase → BitVec 2
  | .idle => 0
  | .streaming => 1
  | .finalized => 2
  | .aborted => 3

/-- The JOB codes of R17. -/
def Job.code : Job → BitVec 2
  | .idle => 0
  | .data => 1
  | .padMore => 2
  | .padLast => 3

/-- The CAUSE codes of R19. -/
def Cause.code : Cause → BitVec 3
  | .none => 0
  | .sourceReadError => 1
  | .illegalCommand => 2
  | .sequenceError => 3

/-- `READY = (JOB = IDLE)` (R18). -/
def State.ready (s : State) : Bool := decide (s.job = .idle)

/-- BUSY, the complement of READY (R18). -/
def State.busy (s : State) : Bool := !s.ready

/-- DVALID: 1 when PHASE = FINALIZED (R29). -/
def State.dvalid (s : State) : Bool := decide (s.phase = .finalized)

/-- `PEND = (JOB = PAD_MORE)`: the second all-padding block is still to come (R24). -/
def State.pend (s : State) : Bool := decide (s.job = .padMore)

/-- The STATUS word: [1:0] PHASE, [2] BUSY, [3] DVALID, [6:4] CAUSE, [31:7] zero (R29). -/
def State.status (s : State) : Word :=
  (0 : BitVec 25) ++ s.cause.code ++ BitVec.ofBool s.dvalid ++ BitVec.ofBool s.busy ++ s.phase.code

/-- What a HOST read of DIGEST0..DIGEST4 returns: the register while PHASE = FINALIZED, and ⊥ in every
other phase (R27). -/
def State.digestOut (s : State) : Option Words5 :=
  if s.phase = .finalized then s.digest else none

/-- Everything the HOST can see of the core: its outputs of R30. -/
structure Outputs where
  ready  : Bool
  status : Word
  digest : Option Words5
  deriving DecidableEq, Repr

/-- The outputs of R30 in a state; reading them has no side effect (R42). -/
def State.outputs (s : State) : Outputs :=
  { ready := s.ready, status := s.status, digest := s.digestOut }

/-- READY = 1 and PHASE ∈ {FINALIZED, ABORTED}: the computation has ended (R122). -/
def State.ended (s : State) : Bool :=
  s.ready && (decide (s.phase = .finalized) || decide (s.phase = .aborted))

end Sys2Proof.Machine
end

