-- ==== Sys2Proof/Machine/Operands.lean ====
section
/-! DEFINITION. Byte order and the places operands are read from and written to: the big-endian helpers
of R9, the words of a block (R37), the length field (R38, R64), the digest's byte view (R28, R39),
and reads and writes of BUF (R10, R36). UPDATE's DATA is the only operand of a command (R50). -/

namespace Sys2Proof.Machine

/-- `BE32(b0, b1, b2, b3)` (R9): b0 is the most significant byte. -/
def be32 (b0 b1 b2 b3 : Byte) : Word := b0 ++ b1 ++ b2 ++ b3

/-- `BE32BYTES(x)` (R9). -/
def be32Bytes (x : Word) : List Byte :=
  [x.extractLsb' 24 8, x.extractLsb' 16 8, x.extractLsb' 8 8, x.extractLsb' 0 8]

/-- `BE64BYTES(v)` (R9). -/
def be64Bytes (v : Dword) : List Byte :=
  [v.extractLsb' 56 8, v.extractLsb' 48 8, v.extractLsb' 40 8, v.extractLsb' 32 8,
   v.extractLsb' 24 8, v.extractLsb' 16 8, v.extractLsb' 8 8, v.extractLsb' 0 8]

/-- The words of a block, each `BE32(B[4t], B[4t+1], B[4t+2], B[4t+3])`: 16 of a 64-byte block (R37). -/
def blockWords : List Byte → List Word
  | b0 :: b1 :: b2 :: b3 :: rest => be32 b0 b1 b2 b3 :: blockWords rest
  | _ => []

/-- L, the message length in bits: `(8 × BYTECOUNT) mod 2^64` (R64). -/
def lengthField (count : Dword) : Dword := 8 * count

/-- The 20 bytes of five words, "big-endian per word, in index order 0..4" (R28, R39). -/
def digestBytes (d : Words5) : List Byte :=
  be32Bytes d.w0 ++ be32Bytes d.w1 ++ be32Bytes d.w2 ++ be32Bytes d.w3 ++ be32Bytes d.w4

/-- Word i of five words, i in 0..4 (R10). -/
def wordAt (d : Words5) (i : Fin 5) : Word :=
  match i with
  | 0 => d.w0
  | 1 => d.w1
  | 2 => d.w2
  | 3 => d.w3
  | 4 => d.w4

/-- `BUF[i] <- x`, `BUF[i+1] <- y`, … for the bytes `x, y, …` in order (R10). The callers keep every
index in 0..63; a byte past BUF[63] would be dropped. -/
def writeBytes (buf : Vector Byte 64) (i : Nat) : List Byte → Vector Byte 64
  | [] => buf
  | b :: bs => writeBytes (buf.setIfInBounds i b) (i + 1) bs

/-- The 64 bytes of BUF, which the ENGINE step reads together (R42, R79). -/
def readBlock (buf : Vector Byte 64) : List Byte := buf.toList

end Sys2Proof.Machine
end

