-- ==== Sys2Proof/Machine/Ops.lean ====
section
/-! DEFINITION. The operations every command shares: the hold while READY = 0 (R118), the place BUF[FILL]
(R62, R63), recording a cause and raising an error event (R20, R96), RESET (R113), and the word rotation
(R8). -/

namespace Sys2Proof.Machine

/-- `rotl(x, n)` for 0 < n < 32 (R8). -/
def rotl (x : Word) (n : Nat) : Word := (x <<< n) ||| (x >>> (32 - n))

/-- The hold of R10 and R118: the command is not accepted and writes nothing; the HOST waits, and an
ENGINE step or RESET lifts the hold (log 7). -/
def hold (s : State) : Result := .next s

/-- A command's precondition READY = 1; "Otherwise the command is held" (R62, R63, R83 to R85, R118). -/
def whenReady (s : State) (accepted : Result) : Result :=
  if s.ready then accepted else hold s

/-- Use the place BUF[FILL]: "FILL in 0..63 here, because JOB = IDLE" (R62, R63). BUF has no other byte. -/
def atFill (s : State) (use : Nat → Result) : Result :=
  if s.fill.toNat < 64 then use s.fill.toNat else .fault .bufferIndex

/-- `record(c)`: CAUSE keeps the first error (R20). -/
def record (c : Cause) (s : State) : State :=
  { s with cause := if s.cause = .none then c else s.cause }

/-- The error event `raise Error(c)`: the core's one kind of exception (R96, R104). It saves nothing but
CAUSE, has no vector and no handler. Its one way back is INIT or RESET (R105). -/
def raiseError (c : Cause) (s : State) : State :=
  { record c s with phase := if s.phase = .streaming then .aborted else s.phase }

/-- RESET (R113): every register of the core to its value in `State.reset` (R33; log 3 for the registers at
⊥). The HOST's drive is no part of the core and goes on. -/
def applyReset (s : State) : State := { State.reset with host := s.host }

/-- Go on with `k` from the next state; a stop stays. -/
def andThen (r : Result) (k : State → Result) : Result :=
  match r with
  | .next s => k s
  | .fault f => .fault f
  | .refused f => .refused f

end Sys2Proof.Machine
end

