-- ==== Sys2Proof/Machine/Scheduler.lean ====
section
/-! DEFINITION. The message scheduler (spec/41_scheduler.md, R71 to R73): SCHEDULE, and the 16-word
window that R73 gives as another way to the same words. -/

namespace Sys2Proof.Machine

/-- One more word at the end of W[0..t-1]:
`W[t] <- rotl(W[t-3] XOR W[t-8] XOR W[t-14] XOR W[t-16], 1)`, with t the number of words so far (R71). -/
def nextWord (w : List Word) : List Word :=
  let t := w.length
  w ++ [rotl (w.getD (t - 3) 0 ^^^ w.getD (t - 8) 0 ^^^ w.getD (t - 14) 0 ^^^ w.getD (t - 16) 0) 1]

/-- `n` words more. -/
def moreWords : Nat → List Word → List Word
  | 0, w => w
  | n + 1, w => moreWords n (nextWord w)

/-- `SCHEDULE(B)`: W[0..79], the block's 16 words and 64 more (R37, R71). -/
def schedule (b : List Byte) : List Word := moreWords 64 (blockWords b)

/-- The 16-word window of R73 moves on by one word: it drops W[t-16] and takes in W[t]. -/
def slideWindow (win : List Word) : List Word := (nextWord win).drop 1

end Sys2Proof.Machine
end

