-- ==== Sys2Proof/Machine/Compression.lean ====
section
/-! DEFINITION. The compression rounds and the accumulation (spec/42_compression.md, R74 to R80), the
initial values (R14), and the form of the rounds over a 16-word window that R73 allows. -/

namespace Sys2Proof.Machine

/-- The initial values H0..H4 (R14). -/
def iv : Words5 :=
  { w0 := 0x67452301, w1 := 0xEFCDAB89, w2 := 0x98BADCFE, w3 := 0x10325476, w4 := 0xC3D2E1F0 }

/-- `f(t, b, c, d)` (R74); the rounds use it for t in 0..79. -/
def roundF (t : Nat) (b c d : Word) : Word :=
  if t ≤ 19 then (b &&& c) ||| (~~~b &&& d)
  else if t ≤ 39 then b ^^^ c ^^^ d
  else if t ≤ 59 then (b &&& c) ||| (b &&& d) ||| (c &&& d)
  else b ^^^ c ^^^ d

/-- `k(t)` (R75); the rounds use it for t in 0..79. -/
def roundK (t : Nat) : Word :=
  if t ≤ 19 then 0x5A827999
  else if t ≤ 39 then 0x6ED9EBA1
  else if t ≤ 59 then 0x8F1BBCDC
  else 0xCA62C1D6

/-- `ROUND(t, (a, b, c, d, e), w)` (R76); the working registers a..e stand in w0..w4. -/
def roundStep (t : Nat) (r : Words5) (w : Word) : Words5 :=
  { w0 := rotl r.w0 5 + roundF t r.w1 r.w2 r.w3 + r.w4 + w + roundK t,
    w1 := r.w0, w2 := rotl r.w1 30, w3 := r.w2, w4 := r.w3 }

/-- The rounds t, t+1, … on the schedule words given, in increasing order (R77). -/
def roundsFrom : Nat → Words5 → List Word → Words5
  | _, r, [] => r
  | t, r, w :: ws => roundsFrom (t + 1) (roundStep t r w) ws

/-- `COMPRESS(Hin, W)`: a round for each of the 80 schedule words (R77). -/
def compress (hin : Words5) (w : List Word) : Words5 := roundsFrom 0 hin w

/-- `ACCUMULATE(out)`: word by word, modulo 2^32 (R78). -/
def accumulate (h out : Words5) : Words5 :=
  { w0 := h.w0 + out.w0, w1 := h.w1 + out.w1, w2 := h.w2 + out.w2, w3 := h.w3 + out.w3,
    w4 := h.w4 + out.w4 }

/-- What BLOCKSTEP makes of H with the block `b` in BUF (R79). Irreducible, so that a proof about another
register does not run the 80 rounds; `blockTransform_eq` gives its value. -/
@[irreducible] def blockTransform (h : Words5) (b : List Byte) : Words5 :=
  accumulate h (compress h (schedule b))

/-- `n` rounds from round `t` on, over a window whose first word is W[t]: "it may keep a 16-word window
and compute W[t] in round t" (R73). -/
def windowRounds : Nat → Nat → Words5 → List Word → Words5
  | 0, _, r, _ => r
  | n + 1, t, r, win => windowRounds n (t + 1) (roundStep t r (win.headD 0)) (slideWindow win)

/-- The 80 rounds of an implementation that keeps only the window (R73). -/
def compressWindowed (hin : Words5) (b : List Byte) : Words5 :=
  windowRounds 80 0 hin (blockWords b)

end Sys2Proof.Machine
end

