-- ==== Sys2Proof/Machine/Streamer.lean ====
section
/-! DEFINITION. The padding-and-blocking streamer (spec/40_streamer.md): the padding blocks of R63, R65
to R67, and the meanings of UPDATE (R62) and FINALIZE (R63). -/

namespace Sys2Proof.Machine

/-- BUF as FINALIZE leaves it with n = FILL: 0x80 at n, zeros after it, and for n ≤ 55 the length field
at 56..63 (R63, R65 to R67). -/
def padFinal (n : Nat) (len : Dword) (buf : Vector Byte 64) : Vector Byte 64 :=
  let padded := writeBytes buf n (0x80 :: List.replicate (63 - n) 0x00)
  if n ≤ 55 then writeBytes padded 56 (be64Bytes len) else padded

/-- BUF as the PAD_MORE follow-up leaves it: the all-padding block of R67 and R88. -/
def padSecond (len : Dword) (buf : Vector Byte 64) : Vector Byte 64 :=
  writeBytes (writeBytes buf 0 (List.replicate 56 0x00)) 56 (be64Bytes len)

/-- UPDATE in STREAMING: append `b` (R62). -/
def appendByte (b : Byte) (s : State) : Result :=
  atFill s fun n => .next { s with
    buf := s.buf.setIfInBounds n b
    fill := s.fill + 1
    byteCount := s.byteCount + 1
    job := if s.fill + 1 = 64 then .data else s.job }

/-- FINALIZE in STREAMING: write the padding and hand the block to the ENGINE (R63). -/
def padMessage (s : State) : Result :=
  atFill s fun n => .next { s with
    buf := padFinal n (lengthField s.byteCount) s.buf
    job := if n ≤ 55 then .padLast else .padMore
    fill := 0 }

/-- UPDATE (R62). -/
def execUpdate (b : Byte) (s : State) : Result :=
  whenReady s <|
    if s.phase = .streaming then appendByte b s
    else .next (raiseError .sequenceError s)

/-- FINALIZE (R63). -/
def execFinalize (s : State) : Result :=
  whenReady s <|
    if s.phase = .streaming then padMessage s
    else .next (raiseError .sequenceError s)

end Sys2Proof.Machine
end

