-- ==== Sys2Proof/Machine/Orchestrator.lean ====
section
/-! DEFINITION. The orchestrator (spec/43_orchestrator.md): the meanings of NOP, INIT and ABORT and of an
ILLEGAL word (R82 to R85, R99), and the ENGINE step with its three follow-ups (R79, R86 to R90). -/

namespace Sys2Proof.Machine

/-- NOP: "no state is written" (R83). -/
def execNop (s : State) : Result := whenReady s (.next s)

/-- INIT: begin a new computation (R84). BUF is not cleared (log 5). -/
def execInit (s : State) : Result :=
  whenReady s <| .next { s with
    h := iv
    fill := 0
    byteCount := 0
    job := .idle
    cause := .none
    digest := none
    phase := .streaming }

/-- ABORT: the HOST's byte source failed (R85, R98). -/
def execAbort (s : State) : Result :=
  whenReady s <| .next <|
    if s.phase = .streaming then raiseError .sourceReadError s
    else raiseError .sequenceError s

/-- A word that decodes to ILLEGAL, in every PHASE (R53, R82, R99). -/
def execIllegal (s : State) : Result :=
  whenReady s (.next (raiseError .illegalCommand s))

/-- BLOCKSTEP: compress the block in BUF into H, and nothing else (R79). -/
def blockStep (s : State) : State := { s with h := blockTransform s.h (readBlock s.buf) }

/-- `JOB_DATA_FOLLOWUP` (R87). -/
def dataFollowup (s : State) : State := { s with fill := 0, job := .idle }

/-- `JOB_MORE_FOLLOWUP`: build the held second block in BUF (R88). -/
def padMoreFollowup (s : State) : State :=
  { s with buf := padSecond (lengthField s.byteCount) s.buf, job := .padLast }

/-- `SERIALIZE`: `DIGEST[i] <- H[i]` for i in 0..4 (R90). -/
def serialize (s : State) : State := { s with digest := some s.h }

/-- `JOB_LAST_FOLLOWUP` (R89). -/
def padLastFollowup (s : State) : State := { serialize s with phase := .finalized, job := .idle }

/-- The ENGINE step, "enabled iff JOB != IDLE", as one atomic transition (R42, R86). With JOB = IDLE the
ENGINE has no step and the core waits, keeping all its state (R112). -/
def engineStep (s : State) : Result :=
  match s.job with
  | .idle => .next s
  | .data => .next (dataFollowup (blockStep s))
  | .padMore => .next (padMoreFollowup (blockStep s))
  | .padLast => .next (padLastFollowup (blockStep s))

end Sys2Proof.Machine
end

