-- ==== Sys2Proof/Machine/Turn.lean ====
section
/-! DEFINITION. One turn of the core: which of RESET, the ENGINE and the HOST's command moves (R44, R86,
R103, R118), and R92's coarser transition that runs the ENGINE to READY = 1. -/

namespace Sys2Proof.Machine

/-- An accepted command word takes effect: decoding comes first (R52, R82, R103). -/
def acceptWord (w : Word) (s : State) : Result :=
  match decode w with
  | .legal i => exec i s
  | .illegal _ => execIllegal s

/-- One turn without RESET in which the HOST drives `cmd` on CMD and `rest` in the turns after it. With
READY = 1 the word presented is accepted, or the core waits where none is (R112). With READY = 0 CMD is
not sampled and the ENGINE moves; a HOST that presents a word holds it (R118). -/
def commandTurn (cmd : Option Word) (rest : List HostDrive) (s : State) : Result :=
  if s.ready then
    match cmd with
    | some w => acceptWord w { s with host := rest }
    | none => .next { s with host := rest }
  else
    match cmd with
    | some _ => engineStep s
    | none => engineStep { s with host := rest }

/-- One turn of the core. RESET "takes priority over any command or ENGINE step presented at the same
time" (R103, R113). Past the end of its list the HOST presents nothing. -/
def turn (s : State) : Result :=
  match s.host with
  | [] => engineStep s
  | d :: rest =>
    if d.reset then .next (applyReset { s with host := rest })
    else commandTurn d.cmd rest s

/-- R92: a command as one transition that "also runs the ENGINE steps it enables, until READY = 1". No
command enables more than two, and an ENGINE step with JOB = IDLE changes nothing. -/
def commandTransition (w : Word) (s : State) : Result :=
  andThen (andThen (acceptWord w s) engineStep) engineStep

/-- What a HOST that presents these words, each until it is accepted, drives on the ports (R58, R118). -/
def present (ws : List Word) : List HostDrive :=
  ws.map fun w => { cmd := some w, reset := false }

end Sys2Proof.Machine
end

