-- ==== Sys2Proof/Machine/Step.lean ====
section
/-! DEFINITION. One step of the machine, and a command word placed where the next step takes it. -/

namespace Sys2Proof.Machine

/-- One transition of the core (R42, R44). -/
def step (s : State) : Host.Outcome State Fault Refusal := turn s

/-- `s` with the word `w` on CMD in the coming turn and RESET not asked; what the HOST drives after it is
unchanged (R48, R118; log 10). Every command is one 32-bit word (R54). -/
def State.withFetchWord (s : State) (nbits w : Nat) : State :=
  { s with host := { cmd := some (BitVec.ofNat 32 (w % 2 ^ nbits)), reset := false } :: s.host }

end Sys2Proof.Machine
end

