-- ==== Sys2Proof/Machine/Assembler.lean ====
section
/-! DEFINITION. Assembler text (R55) and the pseudo-instructions UPDATES, DIGEST and WAIT (R56 to R58):
what each line stands for and the command words it emits. What the spec does not say of the text (blanks,
characters in quotes, the number of hex digits) is named in log 14. -/

namespace Sys2Proof.Machine

/-- One line of assembler text. An immediate is a number that may still be out of range (R55). -/
inductive SourceLine where
  | nop
  | init
  | update (imm : Nat)
  | finalize
  | abort
  /-- `UPDATES b0, b1, …, bn-1` or `UPDATES "<bytes>"` (R56). -/
  | updates (bytes : List Nat)
  /-- `DIGEST "<bytes>"` (R57). -/
  | digest (bytes : List Nat)
  /-- `WAIT`: the HOST polls READY (R58). -/
  | wait
  deriving DecidableEq, Repr

/-- "An immediate outside 0..255 is an assembly error" (R55). DESIGN CHOICE (log 14): one such immediate
among a line's bytes makes the whole line the error. -/
def SourceLine.wellFormed : SourceLine → Bool
  | .update imm => imm < 256
  | .updates bytes => bytes.all (· < 256)
  | .digest bytes => bytes.all (· < 256)
  | .nop => true
  | .init => true
  | .finalize => true
  | .abort => true
  | .wait => true

/-- `UPDATES` on bytes: one UPDATE for each byte, in order (R56). -/
def updatesOf (bytes : List Byte) : List Instr := bytes.map .update

/-- `DIGEST` on bytes: INIT, the UPDATEs, FINALIZE (R57). -/
def digestOf (bytes : List Byte) : List Instr := .init :: (updatesOf bytes ++ [.finalize])

/-- The commands a line expands to. `WAIT` "emits no word": it is the hold of R118 that makes the HOST
wait (R58). -/
def SourceLine.expand : SourceLine → List Instr
  | .nop => [.nop]
  | .init => [.init]
  | .update imm => [.update (BitVec.ofNat 8 imm)]
  | .finalize => [.finalize]
  | .abort => [.abort]
  | .updates bytes => updatesOf (bytes.map (BitVec.ofNat 8))
  | .digest bytes => digestOf (bytes.map (BitVec.ofNat 8))
  | .wait => []

/-- The words a line emits; `none` is the assembly error, which "produces no word" (R55). DESIGN CHOICE
(log 14): a line of several bytes with one out of range emits no word for the others either. -/
def assemble (l : SourceLine) : Option (List Word) :=
  if l.wellFormed then some (l.expand.map encode) else none

/-- A blank between the parts of a line. -/
def isBlank (c : Char) : Bool := c == ' ' || c == '\t'

/-- The text after its leading blanks. -/
def skipBlanks (cs : List Char) : List Char := cs.dropWhile isBlank

/-- The value of a hex digit of either case. -/
def hexValue (c : Char) : Option Nat :=
  if '0' ≤ c ∧ c ≤ '9' then some (c.toNat - 48)
  else if 'A' ≤ c ∧ c ≤ 'F' then some (c.toNat - 55)
  else if 'a' ≤ c ∧ c ≤ 'f' then some (c.toNat - 87)
  else none

/-- The value of a decimal digit. -/
def decValue (c : Char) : Option Nat :=
  if '0' ≤ c ∧ c ≤ '9' then some (c.toNat - 48) else none

/-- Digits of a base read from the left onto `acc`, and the text after them; `seen` says whether there
has been one, and a number has at least one. -/
def readDigits (base : Nat) (value : Char → Option Nat) :
    Bool → Nat → List Char → Option (Nat × List Char)
  | seen, acc, [] => if seen then some (acc, []) else none
  | seen, acc, c :: cs =>
    match value c with
    | some d => readDigits base value true (acc * base + d) cs
    | none => if seen then some (acc, c :: cs) else none

/-- An immediate, "written decimal, 0xNN hex, or 'c' for an ASCII character" (R55), and the text after it.
Character 39 is the single quote. -/
def readImmediate (cs : List Char) : Option (Nat × List Char) :=
  match cs with
  | q :: c :: q' :: rest =>
    if q.toNat = 39 then
      if q'.toNat = 39 ∧ c.toNat < 128 then some (c.toNat, rest) else none
    else if q = '0' ∧ c = 'x' then readDigits 16 hexValue false 0 (q' :: rest)
    else readDigits 10 decValue false 0 cs
  | _ => readDigits 10 decValue false 0 cs

/-- The characters up to the closing double quote (character 34) as byte values, and the text after it. -/
def readQuoted : List Char → Option (List Nat × List Char)
  | [] => none
  | c :: cs =>
    if c.toNat = 34 then some ([], cs)
    else if c.toNat < 128 then (readQuoted cs).map fun (bs, rest) => (c.toNat :: bs, rest)
    else none

/-- `"<bytes>"` (R56, R57). -/
def readString (cs : List Char) : Option (List Nat × List Char) :=
  match cs with
  | [] => none
  | c :: rest => if c.toNat = 34 then readQuoted rest else none

/-- `b0, b1, …` with at most `n` commas (R56). -/
def readList : Nat → List Char → Option (List Nat × List Char)
  | 0, cs => (readImmediate cs).map fun (b, rest) => ([b], rest)
  | n + 1, cs =>
    match readImmediate cs with
    | none => none
    | some (b, rest) =>
      match skipBlanks rest with
      | ',' :: more => (readList n (skipBlanks more)).map fun (bs, after) => (b :: bs, after)
      | _ => some ([b], rest)

/-- The end of a line's text: nothing but blanks, or a comment (R55). -/
def lineEnds (cs : List Char) : Bool :=
  match skipBlanks cs with
  | [] => true
  | c :: _ => c == ';'

/-- What reading one line of text gives. -/
inductive ParsedLine where
  /-- Nothing but blanks and a comment: no command. -/
  | blank
  | line (l : SourceLine)
  /-- Text of no form that R55 to R58 give. -/
  | error
  deriving DecidableEq, Repr

/-- A line that must end where its operand ends. -/
def finishLine (r : Option (SourceLine × List Char)) : ParsedLine :=
  match r with
  | some (l, rest) => if lineEnds rest then .line l else .error
  | none => .error

/-- The text between a mnemonic and its operand: at least one blank. -/
def operandText (cs : List Char) : Option (List Char) :=
  match cs with
  | [] => none
  | c :: rest => if isBlank c then some (skipBlanks rest) else none

/-- The line of a mnemonic and the text after it. -/
def parseAfter (mnemonic rest : List Char) : ParsedLine :=
  if mnemonic = ['N', 'O', 'P'] then finishLine (some (.nop, rest))
  else if mnemonic = ['I', 'N', 'I', 'T'] then finishLine (some (.init, rest))
  else if mnemonic = ['F', 'I', 'N', 'A', 'L', 'I', 'Z', 'E'] then finishLine (some (.finalize, rest))
  else if mnemonic = ['A', 'B', 'O', 'R', 'T'] then finishLine (some (.abort, rest))
  else if mnemonic = ['W', 'A', 'I', 'T'] then finishLine (some (.wait, rest))
  else if mnemonic = ['U', 'P', 'D', 'A', 'T', 'E'] then
    finishLine ((operandText rest).bind readImmediate |>.map fun (n, after) => (.update n, after))
  else if mnemonic = ['U', 'P', 'D', 'A', 'T', 'E', 'S'] then
    if lineEnds rest then .line (.updates [])
    else
      finishLine ((operandText rest).bind (fun cs => (readString cs).or (readList cs.length cs))
        |>.map fun (bs, after) => (.updates bs, after))
  else if mnemonic = ['D', 'I', 'G', 'E', 'S', 'T'] then
    finishLine ((operandText rest).bind readString |>.map fun (bs, after) => (.digest bs, after))
  else .error

/-- One line of text (R55): "Mnemonics are upper-case", and `;` starts a comment. -/
def parseLine (cs : List Char) : ParsedLine :=
  let text := skipBlanks cs
  if lineEnds text then .blank
  else parseAfter (text.takeWhile Char.isUpper) (text.dropWhile Char.isUpper)

end Sys2Proof.Machine
end

