-- ==== Sys2Proof/Config.lean ====
section
/-! DEFINITION. What one built device or its platform fixes and the spec leaves OPEN: the four named
parameters ENGINE_LATENCY, N_INSTANCES, PLATFORM_MAP and PLATFORM_IRQ (R5, R43, R102, R110, R121;
spec/93_implementation_defined.md I9 to I12). None has a body, so no proof can see its value. -/

namespace Sys2Proof.Config

/-- ENGINE_LATENCY: how long one ENGINE step takes, in units of the implementation's choice. "No rule
depends on it" (R5, R121); no definition of the model reads it. -/
opaque engineLatency : Nat

/-- N_INSTANCES less one, so that N_INSTANCES ≥ 1 (R5, R110) holds of every value. -/
opaque furtherInstances : Nat

/-- N_INSTANCES of R110: how many copies of the core a system holds. -/
def nInstances : Nat := furtherInstances + 1

/-- PLATFORM_MAP of R43: where a platform places the core's `i`-th port in an address map of its own.
"No rule of this spec depends on it." -/
opaque platformMap : Nat → Nat

/-- PLATFORM_IRQ of R102: an interrupt a platform may derive from READY and STATUS, outside this block. -/
opaque platformIrq : Bool → Word → Bool

end Sys2Proof.Config
end

