-- ==== Sys2Proof/Machine/Instances.lean ====
section
/-! DEFINITION. Several copies of the core in one system (R110): each has its own state, and they share
nothing. -/

namespace Sys2Proof.Machine

/-- The states of a system's core instances. -/
abbrev System := List State

/-- A system of N_INSTANCES cores, each right after its own RESET (R110, R115). -/
def System.reset : System := List.replicate Config.nInstances State.reset

/-- Instance k takes its next step; the others "send one another no signals" (R110). -/
def System.stepInstance (k : Nat) (sys : System) : Host.Outcome System Fault Refusal :=
  match sys[k]? with
  | none => .next sys
  | some s =>
    match step s with
    | .next s' => .next (sys.set k s')
    | .fault f => .fault f
    | .refused r => .refused r

end Sys2Proof.Machine
end

