-- ==== Sys2Proof/Machine/MessageDigest.lean ====
section
/-! DEFINITION. The digest of a whole message as R1, R68 and R70 give it, said of the message alone: the
padded message, its 64-byte blocks, and the blocks compressed in order from the IV. No command uses it;
claims about the core are stated against it. -/

namespace Sys2Proof.Machine

/-- Z of R68 for a message of n bytes: the number of zero bytes of the padding. -/
def zeroCount (n : Nat) : Nat := (119 - n % 64) % 64

/-- "the message, then one 0x80 byte, then Z zero bytes, then BE64BYTES(8N mod 2^64)" (R68). -/
def paddedMessage (m : List Byte) : List Byte :=
  m ++ 0x80 :: List.replicate (zeroCount m.length) 0x00 ++ be64Bytes (BitVec.ofNat 64 (8 * m.length))

/-- The first n 64-byte blocks of a byte string (R11 "Block"). -/
def blocksOf : Nat → List Byte → List (List Byte)
  | 0, _ => []
  | n + 1, m => m.take 64 :: blocksOf n (m.drop 64)

/-- The blocks that the ENGINE compresses for a message (R68). -/
def messageBlocks (m : List Byte) : List (List Byte) :=
  blocksOf ((paddedMessage m).length / 64) (paddedMessage m)

/-- Blocks compressed one after another: "block N's compression input state is block N−1's output state"
(R44). -/
def compressBlocks (h : Words5) (bs : List (List Byte)) : Words5 := bs.foldl blockTransform h

/-- The SHA-1 digest of a message, as five words (R1, R68, R90). -/
def messageDigest (m : List Byte) : Words5 := compressBlocks iv (messageBlocks m)

end Sys2Proof.Machine
end

