-- ==== Sys2Proof/Safety.lean ====
section
/-! DEFINITION. The states a run can be in, and what a safe run is: the invariant of R22, R27 and R97, the
contents of a padding block in BUF (R17, R65 to R67), which registers the spec holds at ⊥ (R33, R34), and a
run that never stops. -/

namespace Sys2Proof.Machine

/-- What holds of the core's registers at reset and after every step. -/
structure State.Inv (s : State) : Prop where
  /-- "PHASE = STREAMING implies CAUSE = NONE" (R97). -/
  streaming_cause : s.phase = .streaming → s.cause = .none
  /-- "PHASE = ABORTED implies CAUSE ≠ NONE" (R97). -/
  aborted_cause : s.phase = .aborted → s.cause ≠ .none
  /-- Only a computation in progress has a block to compress (R62, R63, R89, R96). -/
  job_streaming : s.job ≠ .idle → s.phase = .streaming
  /-- The legal states of FILL (R22); in IDLE the spec holds FILL at ⊥ (R33). -/
  fill_legal : s.phase ≠ .idle →
    match s.job with
    | .idle => s.fill.toNat < 64
    | .data => s.fill.toNat = 64
    | .padMore => s.fill.toNat = 0
    | .padLast => s.fill.toNat = 0
  /-- BYTECOUNT and FILL agree on the place in the block (R22, R23). -/
  count_fill : s.phase = .streaming →
    match s.job with
    | .idle => s.byteCount.toNat % 64 = s.fill.toNat
    | .data => s.byteCount.toNat % 64 = 0
    | .padMore => 56 ≤ s.byteCount.toNat % 64
    | .padLast => True
  /-- "DIGEST holds a value only while PHASE = FINALIZED" (R27), and there it does. -/
  digest_finalized : s.digest.isSome = true ↔ s.phase = .finalized
  /-- In FINALIZED, DIGEST is the state register file that serialization copied (R90, R91). -/
  finalized_digest : s.phase = .finalized → s.digest = some s.h

/-- The padding that BUF holds while a final block waits (R17), with n = BYTECOUNT mod 64 the number of
message bytes in the last, partial block: in the last block the length field at 56..63, before it 0x80 at n
and then zeros where n ≤ 55 (R65, R66), and zeros alone where n ≥ 56, the second of two (R67); in the first
of two 0x80 at n and then zeros (R67). -/
structure State.PadInv (s : State) : Prop where
  last_length : s.job = .padLast → s.buf.toList.drop 56 = be64Bytes (lengthField s.byteCount)
  last_marker : s.job = .padLast → s.byteCount.toNat % 64 ≤ 55 →
    (s.buf.toList.drop (s.byteCount.toNat % 64)).take (56 - s.byteCount.toNat % 64) =
      0x80 :: List.replicate (55 - s.byteCount.toNat % 64) 0x00
  last_zeros : s.job = .padLast → 56 ≤ s.byteCount.toNat % 64 →
    s.buf.toList.take 56 = List.replicate 56 0x00
  first_marker : s.job = .padMore →
    s.buf.toList.drop (s.byteCount.toNat % 64) =
      0x80 :: List.replicate (63 - s.byteCount.toNat % 64) 0x00

/-- H, FILL and BYTECOUNT are not at ⊥: INIT, the first to write them after RESET (R33, R34), has run, so
PHASE has left IDLE (R16, R81). -/
def State.dataDefined (s : State) : Bool := decide (s.phase ≠ .idle)

/-- BUF[i] is not at ⊥: UPDATE, FINALIZE or the PAD_MORE follow-up of the computation in progress has
written it (R21, R34, R84). -/
def State.byteDefined (s : State) (i : Nat) : Bool :=
  decide (s.phase = .streaming) && (s.busy || decide (i < s.fill.toNat))

/-- Two states that differ at most in registers the spec holds at ⊥. -/
structure State.SameButBottom (s t : State) : Prop where
  phase : s.phase = t.phase
  job : s.job = t.job
  cause : s.cause = t.cause
  digest : s.digest = t.digest
  host : s.host = t.host
  data : s.dataDefined = true → s.h = t.h ∧ s.fill = t.fill ∧ s.byteCount = t.byteCount
  buf : ∀ i (hi : i < 64), s.byteDefined i = true → s.buf[i] = t.buf[i]

/-- `k` steps of the core from `s`. -/
def runSteps (k : Nat) (s : State) : Result := Sys2Proof.core.run k s

/-- A safe run: no number of steps from `s` ends in a fault or a refusal. -/
def State.Safe (s : State) : Prop := ∀ k, ∃ t, runSteps k s = .next t

/-- No RESET stands in the HOST's drive. -/
def State.noReset (s : State) : Prop := ∀ d ∈ s.host, d.reset = false

/-- What the HOST sees of an outcome: the outputs of a next state, and nothing of a stop. -/
def observe (r : Result) : Option Outputs :=
  match r with
  | .next s => some s.outputs
  | .fault _ => none
  | .refused _ => none

end Sys2Proof.Machine
end

