-- ==== Sys2Proof/Certificates/Slice0/Obligations.lean ====
section
/-! DEFINITION. The statements for the provers, in the order of the spec's files: encoding, outputs and
reset, commands, padding, scheduler and rounds, the ENGINE step, errors, turns, invariants, whole runs.
`exec` statements speak of a command presented to the core in the state given; `step` statements speak of
a turn, in which the HOST's list of drives is the model's own (log 1). -/

open Sys2Proof Sys2Proof.Machine

/-! ### Encoding (spec/30_encoding.md) -/

/-- The words of R59 and of the decoder vectors (spec/95_test_vectors.md section 2) decode as written. -/
def Obligations.WrittenWordsDecode : Prop :=
  decode 0x00000000 = .legal .nop ∧ decode 0x00000001 = .legal .init ∧
  decode 0x00000002 = .legal (.update 0x00) ∧ decode 0x00006102 = .legal (.update 0x61) ∧
  decode 0x0000FF02 = .legal (.update 0xFF) ∧ decode 0x00000003 = .legal .finalize ∧
  decode 0x00000004 = .legal .abort ∧
  decode 0x00000005 = .illegal .reservedOpcode ∧ decode 0x000000FF = .illegal .reservedOpcode ∧
  decode 0x00000101 = .illegal .dataNotZero ∧ decode 0x00000100 = .illegal .dataNotZero ∧
  decode 0x00008003 = .illegal .dataNotZero ∧ decode 0x00016102 = .illegal .reservedBitsSet ∧
  decode 0x80000001 = .illegal .reservedBitsSet ∧ decode 0xFFFFFFFF = .illegal .reservedBitsSet

/-- Decode and encode agree, both ways: a word decodes to a command exactly when it is that command's
word, so every operand bit is kept and each command has one word (R48 to R52). -/
def Obligations.DecodeIffEncode : Prop :=
  ∀ (w : Word) (i : Instr), decode w = .legal i ↔ w = encode i

/-- A word is ILLEGAL exactly when RSVD ≠ 0, or DATA ≠ 0 with an opcode other than UPDATE's, or OPCODE is
0x05..0xFF; its fields stand at [31:16], [15:8], [7:0] (R48 to R51, R53). -/
def Obligations.IllegalWordsCharacterised : Prop :=
  ∀ w : Word, (decode w).instr? = none ↔
    (w.toNat / 65536 ≠ 0 ∨ (w.toNat / 256 % 256 ≠ 0 ∧ w.toNat % 256 ≠ 2) ∨ 5 ≤ w.toNat % 256)

/-! ### State, outputs and reset (spec/10_state.md, spec/70_reset_and_hazards.md) -/

/-- The STATUS layout of R29, field by field, its codes those of R16 and R19; READY = (JOB = IDLE) and BUSY
its complement (R18), PEND = (JOB = PAD_MORE) (R24); READY and STATUS after reset. -/
def Obligations.StatusLayout : Prop :=
  (∀ s : State,
    s.status.extractLsb' 0 2 = (match s.phase with
      | .idle => 0 | .streaming => 1 | .finalized => 2 | .aborted => 3) ∧
    s.status.getLsbD 2 = decide (s.job ≠ .idle) ∧
    s.status.getLsbD 3 = decide (s.phase = .finalized) ∧
    s.status.extractLsb' 4 3 = (match s.cause with
      | .none => 0 | .sourceReadError => 1 | .illegalCommand => 2 | .sequenceError => 3) ∧
    s.status.extractLsb' 7 25 = 0 ∧
    (s.ready = true ↔ s.job = .idle) ∧ (s.busy = true ↔ s.ready = false) ∧
    (s.pend = true ↔ s.job = .padMore)) ∧
  State.reset.ready = true ∧ State.reset.status = 0x00000000

/-- The DIGEST ports: ⊥ outside FINALIZED; in FINALIZED, byte `4i + j` of the digest is
`DIGEST[i][31-8j : 24-8j]` (R27, R28, R39). -/
def Obligations.DigestPortsAndBytes : Prop :=
  (∀ s : State, s.phase ≠ .finalized → s.digestOut = none) ∧
  (∀ s : State, s.phase = .finalized → s.digestOut = s.digest) ∧
  (∀ (d : Words5) (i : Fin 5) (j : Fin 4),
    (digestBytes d)[4 * i.val + j.val]? = some ((wordAt d i).extractLsb' (24 - 8 * j.val) 8)) ∧
  (∀ d : Words5, (digestBytes d).length = 20)

/-- The state right after RESET (R33): PHASE, JOB and CAUSE at the table's values, no DIGEST, READY = 1 and
STATUS 0. DESIGN CHOICE (log 3): H, BUF, FILL and BYTECOUNT, at ⊥ in the table, are zero. -/
def Obligations.ResetStateValues : Prop :=
  State.reset.phase = .idle ∧ State.reset.job = .idle ∧ State.reset.cause = .none ∧
  State.reset.digest = none ∧ State.reset.ready = true ∧ State.reset.status = 0x00000000 ∧
  State.reset.h = ⟨0, 0, 0, 0, 0⟩ ∧ (∀ i (hi : i < 64), State.reset.buf[i] = 0) ∧
  State.reset.fill = 0 ∧ State.reset.byteCount = 0

/-- RESET from any state, whatever word is on CMD and whatever JOB is (R113, R103): every register goes
to its value right after RESET, and no command or ENGINE step takes effect. The zeros of H, BUF, FILL and
BYTECOUNT are DESIGN CHOICE (log 3). -/
def Obligations.ResetPreemptsEverything : Prop :=
  ∀ (s : State) (cmd : Option Word) (rest : List HostDrive),
    s.host = { cmd := cmd, reset := true } :: rest →
    step s = .next
      { h := ⟨0, 0, 0, 0, 0⟩, phase := .idle, job := .idle, cause := .none,
        buf := Vector.replicate 64 0, fill := 0, byteCount := 0, digest := none, host := rest }

/-- After RESET (R114): NOP does nothing, INIT starts a computation, and UPDATE, FINALIZE and ABORT raise
SEQUENCE_ERROR, which sets CAUSE = 3 and leaves PHASE = IDLE. -/
def Obligations.CommandsAfterReset : Prop :=
  exec .nop State.reset = .next State.reset ∧
  (∃ t, exec .init State.reset = .next t ∧ t.phase = .streaming ∧ t.status = 0x00000001) ∧
  (∀ i : Instr, (i = .finalize ∨ i = .abort ∨ ∃ b, i = .update b) →
    exec i State.reset = .next { State.reset with cause := .sequenceError } ∧
    State.status { State.reset with cause := .sequenceError } = 0x00000030)

/-! ### Commands: results, each with its whole frame (spec/40_streamer.md, spec/43_orchestrator.md) -/

/-- NOP with READY = 1 writes no state, in every PHASE (R83). -/
def Obligations.NopWritesNothing : Prop := ∀ s : State, s.job = .idle → exec .nop s = .next s

/-- INIT, with READY = 1, in every PHASE (R84, R14): the IV, FILL, BYTECOUNT, JOB, CAUSE, DIGEST and PHASE
as given, and BUF not cleared. -/
def Obligations.InitBeginsComputation : Prop :=
  ∀ s : State, s.job = .idle →
    exec .init s = .next
      { h := ⟨0x67452301, 0xEFCDAB89, 0x98BADCFE, 0x10325476, 0xC3D2E1F0⟩,
        phase := .streaming, job := .idle, cause := .none, buf := s.buf, fill := 0,
        byteCount := 0, digest := none, host := s.host }

/-- UPDATE in STREAMING with READY = 1 (R62): the byte at BUF[FILL] and no other byte of BUF, FILL and
BYTECOUNT one more, JOB = DATA when the block is full, and nothing else changes. -/
def Obligations.UpdateAppendsByte : Prop :=
  ∀ (b : Byte) (s : State), s.job = .idle → s.phase = .streaming → s.fill.toNat < 64 →
    ∃ t, exec (.update b) s = .next t ∧
      (∀ i (hi : i < 64), t.buf[i] = if i = s.fill.toNat then b else s.buf[i]) ∧
      t.fill = BitVec.ofNat 7 (s.fill.toNat + 1) ∧
      t.byteCount = BitVec.ofNat 64 (s.byteCount.toNat + 1) ∧
      t.job = (if s.fill.toNat = 63 then .data else .idle) ∧
      t.h = s.h ∧ t.phase = .streaming ∧ t.cause = s.cause ∧ t.digest = s.digest ∧ t.host = s.host

/-- FINALIZE in STREAMING with READY = 1 (R63, R65 to R67): the padding by offset, one final block when
FILL ≤ 55 and the first of two when FILL ≥ 56, FILL = 0, and nothing else changes. -/
def Obligations.FinalizeWritesPadding : Prop :=
  ∀ s : State, s.job = .idle → s.phase = .streaming → s.fill.toNat < 64 →
    ∃ t, exec .finalize s = .next t ∧
      (∀ i (hi : i < 64), t.buf[i] =
        if i < s.fill.toNat then s.buf[i]
        else if i = s.fill.toNat then 0x80
        else if s.fill.toNat ≤ 55 ∧ 56 ≤ i then
          BitVec.ofNat 8 (8 * s.byteCount.toNat % 2 ^ 64 / 2 ^ (8 * (63 - i)))
        else 0x00) ∧
      t.job = (if s.fill.toNat ≤ 55 then .padLast else .padMore) ∧ t.fill = 0 ∧
      t.h = s.h ∧ t.phase = .streaming ∧ t.cause = s.cause ∧ t.byteCount = s.byteCount ∧
      t.digest = s.digest ∧ t.host = s.host

/-- ABORT in STREAMING with READY = 1 (R85, R98): PHASE = ABORTED, CAUSE = 1 where no cause is recorded yet
(R20), and nothing else changes. -/
def Obligations.AbortEndsComputation : Prop :=
  ∀ s : State, s.job = .idle → s.phase = .streaming →
    exec .abort s = .next { s with
      phase := .aborted, cause := if s.cause = .none then .sourceReadError else s.cause }

/-- UPDATE, FINALIZE and ABORT with READY = 1 outside STREAMING raise SEQUENCE_ERROR (R100): only CAUSE can
change, and it does when no error is recorded. NOP and INIT never raise it. -/
def Obligations.SequenceErrorOutsideStreaming : Prop :=
  (∀ (i : Instr) (s : State), (i = .finalize ∨ i = .abort ∨ ∃ b, i = .update b) →
    s.job = .idle → s.phase ≠ .streaming →
    exec i s = .next { s with cause := if s.cause = .none then .sequenceError else s.cause }) ∧
  (∀ s : State, s.job = .idle → exec .nop s = .next s) ∧
  (∀ s : State, s.job = .idle → ∃ t, exec .init s = .next t ∧ t.cause = .none)

/-- What a command may write, in any state from which it answers a next state: H and DIGEST by INIT
alone, BYTECOUNT by INIT and UPDATE, FILL and JOB by these and FINALIZE, BUF by UPDATE and FINALIZE and
only from FILL's place on, CAUSE by all but NOP and only INIT back to NONE; the HOST's drive by none. -/
def Obligations.CommandFrames : Prop :=
  ∀ (i : Instr) (s t : State), exec i s = .next t →
    (i ≠ .init → t.h = s.h ∧ t.digest = s.digest) ∧
    ((i = .nop ∨ i = .finalize ∨ i = .abort) → t.byteCount = s.byteCount) ∧
    ((i = .nop ∨ i = .abort) → t.fill = s.fill ∧ t.job = s.job) ∧
    ((i = .nop ∨ i = .init ∨ i = .abort) → t.buf = s.buf) ∧
    (∀ k (hk : k < 64), k < s.fill.toNat → t.buf[k] = s.buf[k]) ∧
    (∀ b, i = .update b → ∀ k (hk : k < 64), k ≠ s.fill.toNat → t.buf[k] = s.buf[k]) ∧
    (i ≠ .init → s.cause ≠ .none → t.cause = s.cause) ∧
    t.host = s.host

/-- While READY = 0 every command is held: it writes nothing (R118). -/
def Obligations.CommandsHeldWhileBusy : Prop :=
  ∀ (i : Instr) (s : State), s.job ≠ .idle → exec i s = .next s

/-! ### Padding functions (spec/40_streamer.md section 4 and 5) -/

/-- The length field (R64): `(8 × BYTECOUNT) mod 2^64 = {BYTECOUNT[60:0] ‖ 0b000}`, equal to 8N mod 2^64
for every message length N that BYTECOUNT counts modulo 2^64, and written big-endian. -/
def Obligations.LengthFieldValue : Prop :=
  (∀ c : Dword, (lengthField c).toNat = 8 * c.toNat % 2 ^ 64 ∧
    lengthField c = c.extractLsb' 0 61 ++ (0 : BitVec 3)) ∧
  (∀ n : Nat, (lengthField (BitVec.ofNat 64 n)).toNat = 8 * n % 2 ^ 64) ∧
  (∀ (v : Dword) (j : Fin 8), (be64Bytes v)[j.val]? = some (v.extractLsb' (56 - 8 * j.val) 8))

/-- The padded message of R68: a positive multiple of 64 long, the message first, then 0x80, then Z zero
bytes with Z least, then the 8 length bytes; and its blocks are floor(N/64) data blocks followed by one or
two final blocks. -/
def Obligations.PaddedMessageShape : Prop :=
  ∀ m : List Byte,
    (paddedMessage m).length % 64 = 0 ∧ 0 < (paddedMessage m).length ∧
    (∃ z, paddedMessage m = m ++ [0x80] ++ List.replicate z 0x00 ++
        be64Bytes (BitVec.ofNat 64 (8 * m.length)) ∧
      (m.length + 1 + z + 8) % 64 = 0 ∧ ∀ z', (m.length + 1 + z' + 8) % 64 = 0 → z ≤ z') ∧
    (messageBlocks m).length = m.length / 64 + (if m.length % 64 ≤ 55 then 1 else 2) ∧
    (messageBlocks m).flatten = paddedMessage m ∧ ∀ b ∈ messageBlocks m, b.length = 64

/-! ### Scheduler and rounds (spec/41_scheduler.md, spec/42_compression.md) -/

/-- SCHEDULE (R71): 80 words, the first 16 the block's big-endian words (R37), the others by the
recurrence, whose rotation is by one bit. -/
def Obligations.ScheduleRecurrence : Prop :=
  ∀ b : List Byte, b.length = 64 →
    (schedule b).length = 80 ∧
    (∀ t, t < 16 → (schedule b).getD t 0 =
      b.getD (4 * t) 0 ++ b.getD (4 * t + 1) 0 ++ b.getD (4 * t + 2) 0 ++ b.getD (4 * t + 3) 0) ∧
    (∀ t, 16 ≤ t → t < 80 → (schedule b).getD t 0 =
      ((schedule b).getD (t - 3) 0 ^^^ (schedule b).getD (t - 8) 0 ^^^
        (schedule b).getD (t - 14) 0 ^^^ (schedule b).getD (t - 16) 0).rotateLeft 1)

/-- f and k over their four ranges of t, both ends included (R74, R75). -/
def Obligations.RoundFunctionAndConstant : Prop :=
  ∀ (t : Nat) (b c d : Word),
    (t ≤ 19 → roundF t b c d = ((b &&& c) ||| (~~~b &&& d)) ∧ roundK t = 0x5A827999) ∧
    (20 ≤ t → t ≤ 39 → roundF t b c d = b ^^^ c ^^^ d ∧ roundK t = 0x6ED9EBA1) ∧
    (40 ≤ t → t ≤ 59 →
      roundF t b c d = ((b &&& c) ||| (b &&& d) ||| (c &&& d)) ∧ roundK t = 0x8F1BBCDC) ∧
    (60 ≤ t → t ≤ 79 → roundF t b c d = b ^^^ c ^^^ d ∧ roundK t = 0xCA62C1D6)

/-- ROUND (R76), with the rotations as rotations of a 32-bit word and the sum modulo 2^32. -/
def Obligations.RoundResult : Prop :=
  ∀ (t : Nat) (a b c d e w : Word), t < 80 →
    (roundStep t ⟨a, b, c, d, e⟩ w).w0.toNat =
      ((a.rotateLeft 5).toNat + (roundF t b c d).toNat + e.toNat + w.toNat + (roundK t).toNat) % 2 ^ 32 ∧
    (roundStep t ⟨a, b, c, d, e⟩ w).w1 = a ∧ (roundStep t ⟨a, b, c, d, e⟩ w).w2 = b.rotateLeft 30 ∧
    b.rotateLeft 30 = b.rotateRight 2 ∧
    (roundStep t ⟨a, b, c, d, e⟩ w).w3 = c ∧ (roundStep t ⟨a, b, c, d, e⟩ w).w4 = d

/-- COMPRESS (R77): the 80 rounds in increasing order of t, each on its schedule word, from H. -/
def Obligations.CompressIsEightyRounds : Prop :=
  ∀ (h : Words5) (w : List Word), w.length = 80 →
    compress h w = (w.zipIdx).foldl (fun r (x, t) => roundStep t r x) h

/-- R73: an implementation that keeps a 16-word window and computes W[t] in round t compresses a block to
the same words as the one that expands the whole schedule first. -/
def Obligations.WindowedScheduleEquivalent : Prop :=
  ∀ (h : Words5) (b : List Byte), b.length = 64 → compressWindowed h b = compress h (schedule b)

/-! ### The ENGINE step (spec/42_compression.md R79, spec/43_orchestrator.md R86 to R90) -/

/-- An ENGINE step with JOB = DATA (R79, R86, R87): H accumulates the compressed block, FILL = 0, JOB = IDLE,
and nothing else changes. -/
def Obligations.EngineDataStep : Prop :=
  ∀ s : State, s.job = .data →
    engineStep s = .next { s with
      h := accumulate s.h (compress s.h (schedule s.buf.toList)), fill := 0, job := .idle }

/-- An ENGINE step with JOB = PAD_MORE (R79, R86, R88): H accumulates the first final block, BUF becomes
the all-padding block with the length field, JOB = PAD_LAST, and nothing else changes. -/
def Obligations.EnginePadMoreStep : Prop :=
  ∀ s : State, s.job = .padMore →
    ∃ t, engineStep s = .next t ∧
      t.h = accumulate s.h (compress s.h (schedule s.buf.toList)) ∧
      (∀ i (hi : i < 64), t.buf[i] = if i < 56 then 0x00
        else BitVec.ofNat 8 (8 * s.byteCount.toNat % 2 ^ 64 / 2 ^ (8 * (63 - i)))) ∧
      t.job = .padLast ∧ t.phase = s.phase ∧ t.cause = s.cause ∧ t.fill = s.fill ∧
      t.byteCount = s.byteCount ∧ t.digest = s.digest ∧ t.host = s.host

/-- An ENGINE step with JOB = PAD_LAST (R79, R86, R89, R90): H accumulates the final block, DIGEST is that
H, PHASE = FINALIZED and JOB = IDLE in the same transition, and nothing else changes. -/
def Obligations.EnginePadLastStep : Prop :=
  ∀ s : State, s.job = .padLast →
    engineStep s = .next { s with
      h := accumulate s.h (compress s.h (schedule s.buf.toList)),
      digest := some (accumulate s.h (compress s.h (schedule s.buf.toList))), phase := .finalized,
      job := .idle }

/-- Accumulation (R78): each word of H is the sum modulo 2^32 of the old H and the round output, and the H
added to is the one COMPRESS started from. -/
def Obligations.AccumulateAddsWords : Prop :=
  (∀ (h out : Words5) (i : Fin 5),
    (wordAt (accumulate h out) i).toNat = ((wordAt h i).toNat + (wordAt out i).toNat) % 2 ^ 32) ∧
  (∀ (h : Words5) (b : List Byte) (i : Fin 5), b.length = 64 →
    (wordAt (blockTransform h b) i).toNat =
      ((wordAt h i).toNat + (wordAt (compress h (schedule b)) i).toNat) % 2 ^ 32)

/-! ### Errors (spec/60_exceptions.md) -/

/-- The error event (R96): CAUSE keeps the first error (R20), STREAMING ends in ABORTED, and the event
writes nothing else; in ABORTED, where an error is recorded (R97), nothing changes. -/
def Obligations.ErrorEventWritesCauseAndPhase : Prop :=
  ∀ (c : Cause) (s : State),
    (raiseError c s).cause = (if s.cause = .none then c else s.cause) ∧
    (raiseError c s).phase = (if s.phase = .streaming then .aborted else s.phase) ∧
    (raiseError c s).h = s.h ∧ (raiseError c s).buf = s.buf ∧ (raiseError c s).fill = s.fill ∧
    (raiseError c s).byteCount = s.byteCount ∧ (raiseError c s).job = s.job ∧
    (raiseError c s).digest = s.digest ∧ (raiseError c s).host = s.host ∧
    (s.phase = .aborted → s.cause ≠ .none → raiseError c s = s)

/-- A word that decodes to ILLEGAL, accepted with READY = 1 in any PHASE (R99): the error event
ILLEGAL_COMMAND, and nothing else changes, so the word is not recorded. -/
def Obligations.IllegalWordRaisesIllegalCommand : Prop :=
  ∀ (s : State) (w : Word), s.job = .idle → (decode w).instr? = none →
    acceptWord w s = .next { s with
      cause := if s.cause = .none then .illegalCommand else s.cause,
      phase := if s.phase = .streaming then .aborted else s.phase }

/-- CAUSE is sticky over a whole turn (R20, R105): once an error is recorded, only an accepted INIT or
RESET changes it, and either one makes it NONE. -/
def Obligations.CauseStaysUntilInitOrReset : Prop :=
  ∀ s t : State, step s = .next t → s.cause ≠ .none → t.cause ≠ s.cause →
    t.cause = .none ∧ ∃ d rest, s.host = d :: rest ∧
      (d.reset = true ∨ (s.job = .idle ∧ d.cmd = some (encode .init)))

/-! ### Turns (spec/20_memory.md section 4, spec/70_reset_and_hazards.md section 3) -/

/-- A turn runs the decoded command: with READY = 1, no RESET and a word on CMD, the step is `exec i` of the
state in which the HOST has gone on to its next drive, where the word decodes to `i`, and the error event
ILLEGAL_COMMAND in that state where it is ILLEGAL (R44, R52, R118). The HOST's drives are log 1's. -/
def Obligations.StepRunsDecodedCommand : Prop :=
  ∀ (s : State) (w : Word) (rest : List HostDrive),
    s.host = { cmd := some w, reset := false } :: rest → s.job = .idle →
    (∀ i, decode w = .legal i → step s = exec i { s with host := rest }) ∧
    ((decode w).instr? = none → step s = .next (raiseError .illegalCommand { s with host := rest }))

/-- A command word placed by `withFetchWord` is what the next turn runs, when READY = 1, and nothing else of
the state is changed for it (log 10). -/
def Obligations.PlacedWordRuns : Prop :=
  ∀ (s : State) (w : Nat) (i : Instr), s.job = .idle → decodeTableWord 32 w = some i →
    step (s.withFetchWord 32 w) = exec i s

/-- While READY = 0 and RESET is not asked, the turn is the ENGINE's (R118, R44, R86). CMD is not sampled:
whichever word the HOST presents, it still presents that word after the turn. Where it presents none, the
turn is the ENGINE's just the same, and uses up that entry of the HOST's list where one stands (log 1).
DESIGN CHOICE (log 2): the ENGINE moves in each turn it may; the spec gives weak fairness alone. -/
def Obligations.BusyTurnIsTheEnginesAlone : Prop :=
  ∀ (s : State) (rest : List HostDrive), s.job ≠ .idle →
    (∀ w, s.host = { cmd := some w, reset := false } :: rest →
      step s = engineStep s ∧
      ∀ t, step s = .next t → t.host = s.host ∧
        ∀ w', step { s with host := { cmd := some w', reset := false } :: rest } =
          .next { t with host := { cmd := some w', reset := false } :: rest }) ∧
    (s.host = { cmd := none, reset := false } :: rest →
      step s = engineStep { s with host := rest } ∧
      ∀ t, step s = .next t → t.host = rest ∧ engineStep s = .next { t with host := s.host }) ∧
    (s.host = [] → step s = engineStep s ∧ ∀ t, step s = .next t → t.host = [])

/-- With READY = 1, no word presented and no RESET, the core waits and keeps all its state (R112, R42). -/
def Obligations.ReadyCoreWaits : Prop :=
  ∀ (s : State) (rest : List HostDrive), s.job = .idle →
    (s.host = [] → step s = .next s) ∧
    (s.host = { cmd := none, reset := false } :: rest → step s = .next { s with host := rest })

/-- An instance of a system that steps leaves every other instance as it was (R110). DESIGN CHOICE (log
19): one named instance steps at a time. -/
def Obligations.InstancesShareNothing : Prop :=
  ∀ (sys sys' : System) (k : Nat), System.stepInstance k sys = .next sys' →
    sys'.length = sys.length ∧ (∀ j, j ≠ k → sys'[j]? = sys[j]?) ∧
    ∀ s, sys[k]? = some s → ∃ t, step s = .next t ∧ sys'[k]? = some t

/-! ### Invariants over every step -/

/-- The invariant holds right after RESET. -/
def Obligations.InvAtReset : Prop := State.reset.Inv ∧ State.reset.PadInv

/-- Every step from a state of the invariant answers a next state, and keeps the invariant: FILL stays
legal, the two implications of R97 hold, and DIGEST holds a value exactly in FINALIZED (R22, R27, R97). -/
def Obligations.StepKeepsInv : Prop :=
  ∀ s : State, s.Inv → ∃ t, step s = .next t ∧ t.Inv

/-- While a final block waits, BUF holds the whole of its padding, byte for byte: 0x80, zeros and the length
field in the one final block, 0x80 and zeros in the first of two, zeros and the length field in the second
(R17, R65 to R67). -/
def Obligations.StepKeepsPadInv : Prop :=
  ∀ s t : State, s.Inv → s.PadInv → step s = .next t → t.PadInv

/-- Every run from a state of the invariant is safe, whatever the HOST drives (R22, R101). -/
def Obligations.InvRunsAreSafe : Prop := ∀ s : State, s.Inv → s.Safe

/-- No rule reads a ⊥ value (R34): two states of the invariant that differ at most in registers the spec
holds at ⊥ show the same outputs, and their steps answer states that again differ at most there. -/
def Obligations.BottomIsNeverRead : Prop :=
  ∀ s t : State, s.Inv → t.Inv → s.SameButBottom t → s.outputs = t.outputs ∧
    ∃ s' t', step s = .next s' ∧ step t = .next t' ∧ s'.SameButBottom t'

/-- The values that H, BUF, FILL and BYTECOUNT hold right after RESET, the model's choice (log 3), never
show: with any others in their place, and whatever the HOST drives, every run shows the same outputs (R32,
R33, R34). -/
def Obligations.ResetValuesNeverShow : Prop :=
  ∀ (h : Words5) (buf : Vector Byte 64) (fill : BitVec 7) (c : Dword) (host : List HostDrive) (k : Nat),
    ∃ o, observe (runSteps k { State.reset with host := host }) = some o ∧
      observe (runSteps k { State.reset with
        h := h, buf := buf, fill := fill, byteCount := c, host := host }) = some o

/-- The end of a computation has one of two outcomes (R122): with READY = 1, FINALIZED shows a DIGEST and
ABORTED shows a CAUSE and no DIGEST; and a core that shows DVALID shows a DIGEST (R45). -/
def Obligations.EndedComputationOutcome : Prop :=
  ∀ s : State, s.Inv →
    (s.ended = true → (s.phase = .finalized ∧ s.digestOut ≠ none) ∨
      (s.phase = .aborted ∧ s.cause ≠ .none ∧ s.digestOut = none)) ∧
    (s.dvalid = true → s.ended = true ∧ s.digestOut = some s.h)

/-- The changes of PHASE (R81): RESET to IDLE; an accepted INIT to STREAMING; the PAD_LAST ENGINE step from
STREAMING to FINALIZED; an error event from STREAMING to ABORTED with a cause. No other change exists. -/
def Obligations.PhaseChanges : Prop :=
  ∀ s t : State, s.Inv → step s = .next t → t.phase ≠ s.phase →
    (t.phase = .idle ∧ ∃ d rest, s.host = d :: rest ∧ d.reset = true) ∨
    (t.phase = .streaming ∧ s.job = .idle ∧
      ∃ rest, s.host = { cmd := some (encode .init), reset := false } :: rest) ∨
    (s.phase = .streaming ∧ t.phase = .finalized ∧ s.job = .padLast ∧ t.job = .idle ∧ t.digest = some t.h) ∨
    (s.phase = .streaming ∧ t.phase = .aborted ∧ s.job = .idle ∧ s.cause = .none ∧ t.cause ≠ .none)

/-- Who writes H and DIGEST (R13, R27, R91): a turn that changes H is RESET, INIT or an ENGINE step; a
turn that changes DIGEST is RESET, INIT or the PAD_LAST step. -/
def Obligations.HashAndDigestWriters : Prop :=
  ∀ s t : State, s.Inv → step s = .next t →
    (∃ d rest, s.host = d :: rest ∧
      (d.reset = true ∨ (s.job = .idle ∧ d.cmd = some (encode .init)))) ∨
    ((s.job = .idle → t.h = s.h) ∧ (s.job ≠ .padLast → t.digest = s.digest))

/-! ### Whole runs -/

/-- The ENGINE makes progress (R118, R121): with no RESET asked, a busy core is READY after one ENGINE step,
or two when JOB = PAD_MORE. DESIGN CHOICE (log 2): the ENGINE moves in each turn it may. -/
def Obligations.EngineReachesReady : Prop :=
  ∀ s : State, s.Inv → s.noReset → s.job ≠ .idle →
    ∃ t, runSteps (if s.job = .padMore then 2 else 1) s = .next t ∧ t.ready = true

/-- R92: a command as one transition that runs the ENGINE to READY = 1 reaches the state that the two-agent
turns reach, when the HOST presents only commands. That one to three turns reach it rests on the model's
turns: DESIGN CHOICE (log 1, the HOST's drives; log 2, the ENGINE moves in each turn it may). -/
def Obligations.CommandTransitionAgrees : Prop :=
  ∀ (s : State) (w : Word) (ws : List Word), s.Inv → s.job = .idle → s.host = present (w :: ws) →
    ∃ k t, 1 ≤ k ∧ k ≤ 3 ∧ runSteps k s = .next t ∧ t.ready = true ∧ t.host = present ws ∧
      commandTransition w { s with host := present ws } = .next t

/-- The digest of every message (R1, R57, R68, R70, R90): from any READY state of the invariant, a HOST
that presents INIT, one UPDATE for each byte and FINALIZE brings the core to FINALIZED with READY = 1,
CAUSE = NONE, and DIGEST the blocks of the padded message compressed in order from the IV. That the run
ends rests on DESIGN CHOICE (log 2, the ENGINE moves in each turn it may; log 1, the HOST's drives). -/
def Obligations.DigestOfEveryMessage : Prop :=
  ∀ (s : State) (m : List Byte), s.Inv → s.job = .idle →
    s.host = present ((digestOf m).map encode) →
    ∃ k t, runSteps k s = .next t ∧ t.ready = true ∧ t.host = [] ∧ t.phase = .finalized ∧
      t.cause = .none ∧ t.digestOut = some (messageDigest m) ∧
      t.byteCount = BitVec.ofNat 64 m.length

/-- The digest is the source's own for "" and "abc" (spec/95_test_vectors.md S1, S2). -/
def Obligations.KnownDigests : Prop :=
  messageDigest [] = ⟨0xDA39A3EE, 0x5E6B4B0D, 0x3255BFEF, 0x95601890, 0xAFD80709⟩ ∧
  messageDigest [0x61, 0x62, 0x63] = ⟨0xA9993E36, 0x4706816A, 0xBA3E2571, 0x7850C26C, 0x9CD0D89D⟩

/-- INIT leaves nothing of the past (R81, R84, R93, D11): two READY cores in any states, whose HOSTs present
INIT and then drive the same, show the same outputs after every number of further turns. That turns can be
counted alike in both rests on DESIGN CHOICE (log 1, the HOST's drives; log 2, the ENGINE moves in each turn
it may, since ENGINE_LATENCY is open). -/
def Obligations.InitForgetsThePast : Prop :=
  ∀ (s₁ s₂ : State) (rest : List HostDrive) (k : Nat), s₁.job = .idle → s₂.job = .idle →
    s₁.host = { cmd := some (encode .init), reset := false } :: rest → s₂.host = s₁.host →
    observe (runSteps (k + 1) s₁) = observe (runSteps (k + 1) s₂)

/-- ABORTED is terminal (R69, R105, R81): with neither INIT nor RESET in the HOST's drive, every turn leaves
the whole core as it was, H and BUF included, so the bytes in BUF are never compressed. -/
def Obligations.AbortedIsTerminal : Prop :=
  ∀ (s : State) (k : Nat), s.Inv → s.phase = .aborted →
    (∀ d ∈ s.host, d.reset = false ∧ d.cmd ≠ some (encode .init)) →
    runSteps k s = .next { s with host := s.host.drop k }

/-- DIGEST is immutable (R91, R122): with neither INIT nor RESET in the HOST's drive, every turn from
FINALIZED leaves PHASE, JOB and DIGEST as they were, errors included. -/
def Obligations.DigestImmutableWhileFinalized : Prop :=
  ∀ (s : State) (k : Nat), s.Inv → s.phase = .finalized →
    (∀ d ∈ s.host, d.reset = false ∧ d.cmd ≠ some (encode .init)) →
    ∃ t, runSteps k s = .next t ∧ t.phase = .finalized ∧ t.job = .idle ∧ t.digestOut = s.digestOut ∧
      t.digestOut ≠ none

/-! ### Assembler text (spec/30_encoding.md section 4) -/

/-- What each line emits (R55 to R58): the words of R55, an UPDATE for each byte, DIGEST as INIT, UPDATES,
FINALIZE, nothing for WAIT, the same UPDATEs however the bytes are grouped, and no word where an immediate
is outside 0..255; that it is none for the other bytes of that line either is DESIGN CHOICE (log 14). -/
def Obligations.AssemblerWords : Prop :=
  assemble .nop = some [0x00000000] ∧ assemble .init = some [0x00000001] ∧
  assemble .finalize = some [0x00000003] ∧ assemble .abort = some [0x00000004] ∧
  assemble .wait = some [] ∧
  (∀ v, v < 256 → assemble (.update v) = some [BitVec.ofNat 32 (v * 256 + 2)]) ∧
  (∀ v, 256 ≤ v → assemble (.update v) = none) ∧
  (∀ bs : List Nat, (∀ b ∈ bs, b < 256) →
    assemble (.updates bs) = some (bs.map fun v => BitVec.ofNat 32 (v * 256 + 2)) ∧
    assemble (.digest bs) =
      some ([0x00000001] ++ (bs.map fun v => BitVec.ofNat 32 (v * 256 + 2)) ++ [0x00000003])) ∧
  (∀ bs : List Nat, (∃ b ∈ bs, 256 ≤ b) → assemble (.updates bs) = none ∧ assemble (.digest bs) = none) ∧
  (∀ a b : List Byte, updatesOf (a ++ b) = updatesOf a ++ updatesOf b)
end

