-- ==== Sys2Proof/Laws/Decode.lean ====
section
/-! SUPPORT. A word and its three fields are the same thing, and only UPDATE's fields vary. -/

namespace Sys2Proof

/-- Bit i of the word that holds the fields. -/
theorem wordOf_getLsbD (f : CmdFields) (i : Nat) :
    (wordOf f).getLsbD i =
      if i < 8 then f.opcode.getLsbD i
      else if i < 16 then f.data.getLsbD (i - 8) else f.rsvd.getLsbD (i - 16) := by
  have h : (wordOf f).getLsbD i = if i < 8 then f.opcode.getLsbD i
      else if i - 8 < 8 then f.data.getLsbD (i - 8) else f.rsvd.getLsbD (i - 8 - 8) :=
    BitVec.getLsbD_append.trans (by rw [BitVec.getLsbD_append])
  rw [h]
  by_cases h8 : i < 8
  · simp [h8]
  · by_cases h16 : i < 16
    · simp [h8, h16, show i - 8 < 8 by omega]
    · simp [h8, h16, show ¬ i - 8 < 8 by omega, show i - 8 - 8 = i - 16 by omega]

@[simp] theorem fieldsOf_wordOf (f : CmdFields) : fieldsOf (wordOf f) = f := by
  obtain ⟨op, d, r⟩ := f
  simp only [fieldsOf, CmdFields.mk.injEq]
  refine ⟨?_, ?_, ?_⟩ <;> ext i hi <;> rw [BitVec.getElem_extractLsb', wordOf_getLsbD]
  · simp [hi]
  · simp [show ¬ 8 + i < 8 by omega, show 8 + i < 16 by omega, BitVec.getLsbD_eq_getElem hi]
  · simp [show ¬ 16 + i < 8 by omega, show ¬ 16 + i < 16 by omega, BitVec.getLsbD_eq_getElem hi]

theorem wordOf_fieldsOf (w : Word) : wordOf (fieldsOf w) = w := by
  simp only [fieldsOf, wordOf]
  ext i hi
  simp only [BitVec.getElem_append, BitVec.getElem_extractLsb']
  split
  · simp [BitVec.getLsbD_eq_getElem hi]
  · split
    · rw [show 8 + (i - 8) = i by omega, BitVec.getLsbD_eq_getElem hi]
    · rw [show 16 + (i - 8 - 8) = i by omega, BitVec.getLsbD_eq_getElem hi]

/-- Each command's fields pass the three checks on a word. -/
theorem fields_wellFormed (i : Instr) : i.fields.wellFormed = true := by
  cases i <;> simp [Instr.fields, CmdFields.wellFormed, CmdFields.rsvdClear, CmdFields.dataAllowed,
    CmdFields.opcodeDefined]

end Sys2Proof
end

