-- ==== Sys2Proof/Laws/State.lean ====
section
/-! SUPPORT. What each shared update of the state does to each field, true by unfolding: `record`,
`raiseError`, `applyReset`, `serialize`, `blockStep` and the ENGINE's follow-ups, and `withFetchWord`; and
the state right after RESET. -/

namespace Sys2Proof.Machine

@[simp] theorem record_h (c : Cause) (s : State) : (record c s).h = s.h := rfl
@[simp] theorem record_phase (c : Cause) (s : State) : (record c s).phase = s.phase := rfl
@[simp] theorem record_job (c : Cause) (s : State) : (record c s).job = s.job := rfl
@[simp] theorem record_cause (c : Cause) (s : State) :
    (record c s).cause = if s.cause = .none then c else s.cause := rfl
@[simp] theorem record_buf (c : Cause) (s : State) : (record c s).buf = s.buf := rfl
@[simp] theorem record_fill (c : Cause) (s : State) : (record c s).fill = s.fill := rfl
@[simp] theorem record_byteCount (c : Cause) (s : State) : (record c s).byteCount = s.byteCount := rfl
@[simp] theorem record_digest (c : Cause) (s : State) : (record c s).digest = s.digest := rfl
@[simp] theorem record_host (c : Cause) (s : State) : (record c s).host = s.host := rfl

@[simp] theorem raiseError_h (c : Cause) (s : State) : (raiseError c s).h = s.h := rfl
@[simp] theorem raiseError_phase (c : Cause) (s : State) :
    (raiseError c s).phase = if s.phase = .streaming then .aborted else s.phase := rfl
@[simp] theorem raiseError_job (c : Cause) (s : State) : (raiseError c s).job = s.job := rfl
@[simp] theorem raiseError_cause (c : Cause) (s : State) :
    (raiseError c s).cause = if s.cause = .none then c else s.cause := rfl
@[simp] theorem raiseError_buf (c : Cause) (s : State) : (raiseError c s).buf = s.buf := rfl
@[simp] theorem raiseError_fill (c : Cause) (s : State) : (raiseError c s).fill = s.fill := rfl
@[simp] theorem raiseError_byteCount (c : Cause) (s : State) : (raiseError c s).byteCount = s.byteCount := rfl
@[simp] theorem raiseError_digest (c : Cause) (s : State) : (raiseError c s).digest = s.digest := rfl
@[simp] theorem raiseError_host (c : Cause) (s : State) : (raiseError c s).host = s.host := rfl

@[simp] theorem applyReset_h (s : State) : (applyReset s).h = ⟨0, 0, 0, 0, 0⟩ := rfl
@[simp] theorem applyReset_phase (s : State) : (applyReset s).phase = .idle := rfl
@[simp] theorem applyReset_job (s : State) : (applyReset s).job = .idle := rfl
@[simp] theorem applyReset_cause (s : State) : (applyReset s).cause = .none := rfl
@[simp] theorem applyReset_buf (s : State) : (applyReset s).buf = Vector.replicate 64 0 := rfl
@[simp] theorem applyReset_fill (s : State) : (applyReset s).fill = 0 := rfl
@[simp] theorem applyReset_byteCount (s : State) : (applyReset s).byteCount = 0 := rfl
@[simp] theorem applyReset_digest (s : State) : (applyReset s).digest = none := rfl
@[simp] theorem applyReset_host (s : State) : (applyReset s).host = s.host := rfl

@[simp] theorem serialize_h (s : State) : (serialize s).h = s.h := rfl
@[simp] theorem serialize_phase (s : State) : (serialize s).phase = s.phase := rfl
@[simp] theorem serialize_job (s : State) : (serialize s).job = s.job := rfl
@[simp] theorem serialize_cause (s : State) : (serialize s).cause = s.cause := rfl
@[simp] theorem serialize_buf (s : State) : (serialize s).buf = s.buf := rfl
@[simp] theorem serialize_fill (s : State) : (serialize s).fill = s.fill := rfl
@[simp] theorem serialize_byteCount (s : State) : (serialize s).byteCount = s.byteCount := rfl
@[simp] theorem serialize_digest (s : State) : (serialize s).digest = some s.h := rfl
@[simp] theorem serialize_host (s : State) : (serialize s).host = s.host := rfl

@[simp] theorem blockStep_h (s : State) : (blockStep s).h = blockTransform s.h (readBlock s.buf) := rfl
@[simp] theorem blockStep_phase (s : State) : (blockStep s).phase = s.phase := rfl
@[simp] theorem blockStep_job (s : State) : (blockStep s).job = s.job := rfl
@[simp] theorem blockStep_cause (s : State) : (blockStep s).cause = s.cause := rfl
@[simp] theorem blockStep_buf (s : State) : (blockStep s).buf = s.buf := rfl
@[simp] theorem blockStep_fill (s : State) : (blockStep s).fill = s.fill := rfl
@[simp] theorem blockStep_byteCount (s : State) : (blockStep s).byteCount = s.byteCount := rfl
@[simp] theorem blockStep_digest (s : State) : (blockStep s).digest = s.digest := rfl
@[simp] theorem blockStep_host (s : State) : (blockStep s).host = s.host := rfl

@[simp] theorem dataFollowup_h (s : State) : (dataFollowup s).h = s.h := rfl
@[simp] theorem dataFollowup_phase (s : State) : (dataFollowup s).phase = s.phase := rfl
@[simp] theorem dataFollowup_job (s : State) : (dataFollowup s).job = .idle := rfl
@[simp] theorem dataFollowup_cause (s : State) : (dataFollowup s).cause = s.cause := rfl
@[simp] theorem dataFollowup_buf (s : State) : (dataFollowup s).buf = s.buf := rfl
@[simp] theorem dataFollowup_fill (s : State) : (dataFollowup s).fill = 0 := rfl
@[simp] theorem dataFollowup_byteCount (s : State) : (dataFollowup s).byteCount = s.byteCount := rfl
@[simp] theorem dataFollowup_digest (s : State) : (dataFollowup s).digest = s.digest := rfl
@[simp] theorem dataFollowup_host (s : State) : (dataFollowup s).host = s.host := rfl

@[simp] theorem padMoreFollowup_h (s : State) : (padMoreFollowup s).h = s.h := rfl
@[simp] theorem padMoreFollowup_phase (s : State) : (padMoreFollowup s).phase = s.phase := rfl
@[simp] theorem padMoreFollowup_job (s : State) : (padMoreFollowup s).job = .padLast := rfl
@[simp] theorem padMoreFollowup_cause (s : State) : (padMoreFollowup s).cause = s.cause := rfl
@[simp] theorem padMoreFollowup_buf (s : State) :
    (padMoreFollowup s).buf = padSecond (lengthField s.byteCount) s.buf := rfl
@[simp] theorem padMoreFollowup_fill (s : State) : (padMoreFollowup s).fill = s.fill := rfl
@[simp] theorem padMoreFollowup_byteCount (s : State) : (padMoreFollowup s).byteCount = s.byteCount := rfl
@[simp] theorem padMoreFollowup_digest (s : State) : (padMoreFollowup s).digest = s.digest := rfl
@[simp] theorem padMoreFollowup_host (s : State) : (padMoreFollowup s).host = s.host := rfl

@[simp] theorem padLastFollowup_h (s : State) : (padLastFollowup s).h = s.h := rfl
@[simp] theorem padLastFollowup_phase (s : State) : (padLastFollowup s).phase = .finalized := rfl
@[simp] theorem padLastFollowup_job (s : State) : (padLastFollowup s).job = .idle := rfl
@[simp] theorem padLastFollowup_cause (s : State) : (padLastFollowup s).cause = s.cause := rfl
@[simp] theorem padLastFollowup_buf (s : State) : (padLastFollowup s).buf = s.buf := rfl
@[simp] theorem padLastFollowup_fill (s : State) : (padLastFollowup s).fill = s.fill := rfl
@[simp] theorem padLastFollowup_byteCount (s : State) : (padLastFollowup s).byteCount = s.byteCount := rfl
@[simp] theorem padLastFollowup_digest (s : State) : (padLastFollowup s).digest = some s.h := rfl
@[simp] theorem padLastFollowup_host (s : State) : (padLastFollowup s).host = s.host := rfl

@[simp] theorem State.withFetchWord_h (s : State) (nbits w : Nat) : (s.withFetchWord nbits w).h = s.h := rfl
@[simp] theorem State.withFetchWord_phase (s : State) (nbits w : Nat) :
    (s.withFetchWord nbits w).phase = s.phase := rfl
@[simp] theorem State.withFetchWord_job (s : State) (nbits w : Nat) :
    (s.withFetchWord nbits w).job = s.job := rfl
@[simp] theorem State.withFetchWord_cause (s : State) (nbits w : Nat) :
    (s.withFetchWord nbits w).cause = s.cause := rfl
@[simp] theorem State.withFetchWord_buf (s : State) (nbits w : Nat) :
    (s.withFetchWord nbits w).buf = s.buf := rfl
@[simp] theorem State.withFetchWord_fill (s : State) (nbits w : Nat) :
    (s.withFetchWord nbits w).fill = s.fill := rfl
@[simp] theorem State.withFetchWord_byteCount (s : State) (nbits w : Nat) :
    (s.withFetchWord nbits w).byteCount = s.byteCount := rfl
@[simp] theorem State.withFetchWord_digest (s : State) (nbits w : Nat) :
    (s.withFetchWord nbits w).digest = s.digest := rfl
@[simp] theorem State.withFetchWord_host (s : State) (nbits w : Nat) :
    (s.withFetchWord nbits w).host = { cmd := some (BitVec.ofNat 32 (w % 2 ^ nbits)), reset := false } :: s.host := rfl

@[simp] theorem reset_h : State.reset.h = ⟨0, 0, 0, 0, 0⟩ := rfl
@[simp] theorem reset_phase : State.reset.phase = .idle := rfl
@[simp] theorem reset_job : State.reset.job = .idle := rfl
@[simp] theorem reset_cause : State.reset.cause = .none := rfl
@[simp] theorem reset_buf : State.reset.buf = Vector.replicate 64 0 := rfl
@[simp] theorem reset_fill : State.reset.fill = 0 := rfl
@[simp] theorem reset_byteCount : State.reset.byteCount = 0 := rfl
@[simp] theorem reset_digest : State.reset.digest = none := rfl
@[simp] theorem reset_host : State.reset.host = [] := rfl

end Sys2Proof.Machine
end

