-- ==== Sys2Proof/Laws/Ops.lean ====
section
/-! SUPPORT. What the shared operations can do, said once: the hold, the place BUF[FILL], sequencing,
reads and writes of BUF, and the word helpers. -/

namespace Sys2Proof.Machine

@[simp] theorem ready_eq_true (s : State) : s.ready = true ↔ s.job = .idle := by
  simp [State.ready]

@[simp] theorem ready_eq_false (s : State) : s.ready = false ↔ s.job ≠ .idle := by
  simp [State.ready]

theorem whenReady_of_idle {s : State} (h : s.job = .idle) (r : Result) : whenReady s r = r := by
  simp [whenReady, h]

theorem whenReady_of_busy {s : State} (h : s.job ≠ .idle) (r : Result) : whenReady s r = .next s := by
  simp [whenReady, hold, h]

/-- A command either is accepted with READY = 1, or is held and leaves the state. -/
theorem whenReady_next {s t : State} {r : Result} (h : whenReady s r = .next t) :
    (s.job = .idle ∧ r = .next t) ∨ (s.job ≠ .idle ∧ t = s) := by
  by_cases hj : s.job = .idle
  · exact .inl ⟨hj, by simpa [whenReady_of_idle hj] using h⟩
  · rw [whenReady_of_busy hj] at h
    cases h
    exact .inr ⟨hj, rfl⟩

/-- A rule that uses BUF[FILL] goes on exactly where BUF has that byte. -/
theorem atFill_next {s t : State} {use : Nat → Result} :
    atFill s use = .next t ↔ s.fill.toNat < 64 ∧ use s.fill.toNat = .next t := by
  unfold atFill
  split <;> simp [*]

theorem atFill_of_lt {s : State} (h : s.fill.toNat < 64) (use : Nat → Result) :
    atFill s use = use s.fill.toNat := if_pos h

@[simp] theorem andThen_of_next (s : State) (k : State → Result) :
    andThen (.next s) k = k s := rfl

theorem andThen_next {r : Result} {k : State → Result} {t : State} :
    andThen r k = .next t ↔ ∃ u, r = .next u ∧ k u = .next t := by
  cases r <;> simp [andThen]

/-- `writeBytes` puts its bytes at i, i+1, … and leaves every other byte. -/
theorem writeBytes_getElem (bs : List Byte) (buf : Vector Byte 64) (i k : Nat) (hk : k < 64) :
    (writeBytes buf i bs)[k] =
      if i ≤ k ∧ k < i + bs.length then bs.getD (k - i) 0 else buf[k] := by
  induction bs generalizing buf i with
  | nil => simp [writeBytes] <;> omega
  | cons b bs ih =>
    rw [writeBytes, ih]
    by_cases h : i = k
    · subst h
      simp <;> omega
    · by_cases h' : i + 1 ≤ k ∧ k < i + 1 + bs.length
      · have e : k - i = (k - (i + 1)) + 1 := by omega
        rw [if_pos h', if_pos (by simp; omega), e]
        simp
      · rw [if_neg h', if_neg (by simp; omega)]
        simp [h]

@[simp] theorem readBlock_length (buf : Vector Byte 64) : (readBlock buf).length = 64 := by
  simp [readBlock]

/-- BLOCKSTEP's H: the H that COMPRESS started from plus its output (R78, R79). -/
theorem blockTransform_eq (h : Words5) (b : List Byte) :
    blockTransform h b = accumulate h (compress h (schedule b)) := by
  unfold blockTransform
  rfl

theorem blockWords_length (b : List Byte) : (blockWords b).length = b.length / 4 := by
  induction b using blockWords.induct with
  | case1 b0 b1 b2 b3 rest ih => simp only [blockWords, List.length_cons, ih]; omega
  | case2 b h =>
    rcases b with _ | ⟨_, _ | ⟨_, _ | ⟨_, _ | ⟨_, _⟩⟩⟩⟩
    all_goals first | (simp [blockWords]; done) | exact (h _ _ _ _ _ rfl).elim

/-- Word t of a block is big-endian over its four bytes (R37). -/
theorem blockWords_getD (b : List Byte) (t : Nat) (h : 4 * t + 3 < b.length) :
    (blockWords b).getD t 0 =
      be32 (b.getD (4 * t) 0) (b.getD (4 * t + 1) 0) (b.getD (4 * t + 2) 0) (b.getD (4 * t + 3) 0) := by
  induction t generalizing b with
  | zero =>
    rcases b with _ | ⟨_, _ | ⟨_, _ | ⟨_, _ | ⟨_, _⟩⟩⟩⟩
    all_goals first | rfl | (simp at h <;> omega)
  | succ t ih =>
    rcases b with _ | ⟨b0, _ | ⟨b1, _ | ⟨b2, _ | ⟨b3, rest⟩⟩⟩⟩
    case cons.cons.cons.cons =>
      simp only [List.length_cons] at h
      simpa [blockWords, Nat.mul_add] using ih rest (by omega)
    all_goals simp at h <;> omega

theorem rotl_eq_rotateLeft (x : Word) {n : Nat} (h : n < 32) : rotl x n = x.rotateLeft n := by
  simp [rotl, BitVec.rotateLeft_def, Nat.mod_eq_of_lt h]

@[simp] theorem lengthField_toNat (c : Dword) : (lengthField c).toNat = 8 * c.toNat % 2 ^ 64 := by
  simp [lengthField]

@[simp] theorem be64Bytes_length (v : Dword) : (be64Bytes v).length = 8 := rfl

@[simp] theorem be32Bytes_length (x : Word) : (be32Bytes x).length = 4 := rfl

@[simp] theorem digestBytes_length (d : Words5) : (digestBytes d).length = 20 := rfl

/-- Byte j of BE64BYTES, as a number. -/
theorem be64Bytes_getD (v : Dword) {j : Nat} (h : j < 8) :
    (be64Bytes v).getD j 0 = BitVec.ofNat 8 (v.toNat / 2 ^ (8 * (7 - j))) := by
  have : j = 0 ∨ j = 1 ∨ j = 2 ∨ j = 3 ∨ j = 4 ∨ j = 5 ∨ j = 6 ∨ j = 7 := by omega
  rcases this with rfl | rfl | rfl | rfl | rfl | rfl | rfl | rfl <;>
    simp [be64Bytes, BitVec.extractLsb', Nat.shiftRight_eq_div_pow]

end Sys2Proof.Machine
end

