-- ==== Sys2Proof/Laws/Padding.lean ====
section
/-! SUPPORT. The bytes of the padding blocks, offset by offset (R63, R65 to R67, R88). -/

namespace Sys2Proof.Machine

/-- Every byte of a run of zeros is zero. -/
theorem zeros_getD (n k : Nat) : (List.replicate n (0x00 : Byte)).getD k 0 = 0x00 := by
  rw [List.getD_eq_getElem?_getD, List.getElem?_replicate]
  split <;> rfl

/-- 0x80 at n and zeros to the end of BUF; the bytes before n stay. -/
theorem marker_getElem {n : Nat} (hn : n < 64) (buf : Vector Byte 64) (i : Nat) (hi : i < 64) :
    (writeBytes buf n (0x80 :: List.replicate (63 - n) 0x00))[i] =
      if i < n then buf[i] else if i = n then 0x80 else 0x00 := by
  rw [writeBytes_getElem _ _ _ _ hi, List.length_cons, List.length_replicate]
  by_cases h1 : i < n
  · rw [if_neg (by omega), if_pos h1]
  · rw [if_pos (by omega), if_neg h1]
    by_cases h2 : i = n
    · simp [h2]
    · rw [if_neg h2, show i - n = (i - n - 1) + 1 by omega, List.getD_cons_succ, zeros_getD]

theorem padFinal_getElem {n : Nat} (hn : n < 64) (len : Dword) (buf : Vector Byte 64) (i : Nat)
    (hi : i < 64) :
    (padFinal n len buf)[i] =
      if i < n then buf[i]
      else if i = n then 0x80
      else if n ≤ 55 ∧ 56 ≤ i then (be64Bytes len).getD (i - 56) 0 else 0x00 := by
  dsimp only [padFinal]
  by_cases h : n ≤ 55
  · simp only [if_pos h]
    rw [writeBytes_getElem _ _ _ _ hi, marker_getElem hn, be64Bytes_length]
    by_cases h56 : 56 ≤ i
    · rw [if_pos (by omega), if_neg (by omega), if_neg (by omega), if_pos ⟨h, h56⟩]
    · rw [if_neg (by omega), if_neg (c := n ≤ 55 ∧ 56 ≤ i) (by omega)]
  · simp only [if_neg h]
    rw [marker_getElem hn, if_neg (c := n ≤ 55 ∧ 56 ≤ i) (by omega)]

theorem padSecond_getElem (len : Dword) (buf : Vector Byte 64) (i : Nat) (hi : i < 64) :
    (padSecond len buf)[i] = if i < 56 then 0x00 else (be64Bytes len).getD (i - 56) 0 := by
  rw [padSecond, writeBytes_getElem _ _ _ _ hi, writeBytes_getElem _ _ _ _ hi, be64Bytes_length,
    List.length_replicate]
  by_cases h : i < 56
  · rw [if_neg (by omega), if_pos (by omega), if_pos h, zeros_getD]
  · rw [if_pos (by omega), if_neg h]

end Sys2Proof.Machine
end

