-- ==== Sys2Proof/Laws/PerInstr.lean ====
section
/-! SUPPORT. One lemma for each command: its word has the command's OPCODE of R49 in [7:0], zeros in RSVD,
and fields that pass the checks of R48 to R51. -/

namespace Sys2Proof.Laws.EncodesLegalWord

/-- The OPCODE of R49. -/
def opcode : Instr → Byte
  | .nop => 0x00
  | .init => 0x01
  | .update _ => 0x02
  | .finalize => 0x03
  | .abort => 0x04

/-- The command is well-formed, and its word is a legal one that carries its OPCODE. -/
def Statement (i : Instr) : Prop :=
  i.wellFormed = true ∧ (fieldsOf (encode i)).wellFormed = true ∧
  (fieldsOf (encode i)).opcode = opcode i ∧ (fieldsOf (encode i)).rsvd = 0

theorem of_fields {i : Instr} (hw : i.wellFormed = true) (ho : i.fields.opcode = opcode i)
    (hr : i.fields.rsvd = 0) : Statement i := by
  rw [Statement, encode, fieldsOf_wordOf]
  exact ⟨hw, fields_wellFormed i, ho, hr⟩

theorem nop : Statement .nop := of_fields rfl rfl rfl

theorem init : Statement .init := of_fields rfl rfl rfl

theorem update (data : Byte) : Statement (.update data) := of_fields rfl rfl rfl

theorem finalize : Statement .finalize := of_fields rfl rfl rfl

theorem abort : Statement .abort := of_fields rfl rfl rfl

end Sys2Proof.Laws.EncodesLegalWord
end

