-- ==== Sys2Proof/Laws/Turn.lean ====
section
/-! SUPPORT. What a command, an ENGINE step and a turn can do, said once: if it answers a next state, then
one of the cases listed holds. Every invariant is a case analysis over these. -/

namespace Sys2Proof.Machine

/-- The state INIT makes of `s` (R84). -/
def initialised (s : State) : State :=
  { s with
    h := iv
    fill := 0
    byteCount := 0
    job := .idle
    cause := .none
    digest := none
    phase := .streaming }

/-- The state UPDATE makes of `s` in STREAMING (R62). -/
def appended (b : Byte) (s : State) : State :=
  { s with
    buf := s.buf.setIfInBounds s.fill.toNat b
    fill := s.fill + 1
    byteCount := s.byteCount + 1
    job := if s.fill + 1 = 64 then .data else s.job }

/-- The state FINALIZE makes of `s` in STREAMING (R63). -/
def padded (s : State) : State :=
  { s with
    buf := padFinal s.fill.toNat (lengthField s.byteCount) s.buf
    job := if s.fill.toNat ≤ 55 then .padLast else .padMore
    fill := 0 }

theorem appendByte_next {b : Byte} {s t : State} :
    appendByte b s = .next t ↔ s.fill.toNat < 64 ∧ t = appended b s := by
  simp only [appendByte, atFill_next, Host.Outcome.next.injEq]
  exact and_congr_right fun _ => eq_comm

theorem padMessage_next {s t : State} :
    padMessage s = .next t ↔ s.fill.toNat < 64 ∧ t = padded s := by
  simp only [padMessage, atFill_next, Host.Outcome.next.injEq]
  exact and_congr_right fun _ => eq_comm

/-- What an accepted command can do (R82): nothing, begin a computation, append a byte, pad the message, or
raise an error of a cause that is not NONE. -/
inductive Accepted (s : State) : Instr → State → Prop where
  | nop : Accepted s .nop s
  | init : Accepted s .init (initialised s)
  | update (b : Byte) : s.phase = .streaming → s.fill.toNat < 64 → Accepted s (.update b) (appended b s)
  | finalize : s.phase = .streaming → s.fill.toNat < 64 → Accepted s .finalize (padded s)
  | abort : s.phase = .streaming → Accepted s .abort (raiseError .sourceReadError s)
  | sequence (i : Instr) : s.phase ≠ .streaming → i ≠ .nop → i ≠ .init →
      Accepted s i (raiseError .sequenceError s)

theorem exec_next {i : Instr} {s t : State} (h : exec i s = .next t) :
    (s.job = .idle ∧ Accepted s i t) ∨ (s.job ≠ .idle ∧ t = s) := by
  cases i with
  | nop =>
    rcases whenReady_next h with ⟨hj, hr⟩ | hb
    · cases hr; exact .inl ⟨hj, .nop⟩
    · exact .inr hb
  | init =>
    rcases whenReady_next h with ⟨hj, hr⟩ | hb
    · cases hr; exact .inl ⟨hj, .init⟩
    · exact .inr hb
  | update b =>
    rcases whenReady_next h with ⟨hj, hr⟩ | hb
    · split at hr
      · obtain ⟨hlt, rfl⟩ := appendByte_next.mp hr
        exact .inl ⟨hj, .update b ‹_› hlt⟩
      · cases hr; exact .inl ⟨hj, .sequence _ ‹_› (by simp) (by simp)⟩
    · exact .inr hb
  | finalize =>
    rcases whenReady_next h with ⟨hj, hr⟩ | hb
    · split at hr
      · obtain ⟨hlt, rfl⟩ := padMessage_next.mp hr
        exact .inl ⟨hj, .finalize ‹_› hlt⟩
      · cases hr; exact .inl ⟨hj, .sequence _ ‹_› (by simp) (by simp)⟩
    · exact .inr hb
  | abort =>
    rcases whenReady_next h with ⟨hj, hr⟩ | hb
    · split at hr
      · cases hr; exact .inl ⟨hj, .abort ‹_›⟩
      · cases hr; exact .inl ⟨hj, .sequence _ ‹_› (by simp) (by simp)⟩
    · exact .inr hb

theorem execIllegal_of_idle {s : State} (h : s.job = .idle) :
    execIllegal s = .next (raiseError .illegalCommand s) := whenReady_of_idle h _

/-- With READY = 1, an accepted word takes its command's effect, or is ILLEGAL and raises an error. -/
theorem acceptWord_next {w : Word} {s t : State} (hj : s.job = .idle) (h : acceptWord w s = .next t) :
    (∃ i, decode w = .legal i ∧ Accepted s i t) ∨
    ((∃ why, decode w = .illegal why) ∧ t = raiseError .illegalCommand s) := by
  unfold acceptWord at h
  cases hd : decode w with
  | legal i =>
    rw [hd] at h
    rcases exec_next h with ⟨_, ha⟩ | ⟨hb, _⟩
    · exact .inl ⟨i, rfl, ha⟩
    · exact absurd hj hb
  | illegal why =>
    rw [hd, execIllegal_of_idle hj] at h
    cases h
    exact .inr ⟨⟨why, rfl⟩, rfl⟩

/-- What the ENGINE can do (R86): wait, or compress the block in BUF and follow JOB. -/
inductive Engine (s : State) : State → Prop where
  | wait : s.job = .idle → Engine s s
  | data : s.job = .data → Engine s (dataFollowup (blockStep s))
  | padMore : s.job = .padMore → Engine s (padMoreFollowup (blockStep s))
  | padLast : s.job = .padLast → Engine s (padLastFollowup (blockStep s))

theorem engineStep_next {s t : State} : engineStep s = .next t ↔ Engine s t := by
  constructor
  · intro h
    unfold engineStep at h
    split at h <;> rw [← Host.Outcome.next.inj h]
    next hj => exact .wait hj
    next hj => exact .data hj
    next hj => exact .padMore hj
    next hj => exact .padLast hj
  · intro h
    cases h with
    | wait hj => simp only [engineStep, hj]
    | data hj => simp only [engineStep, hj]
    | padMore hj => simp only [engineStep, hj]
    | padLast hj => simp only [engineStep, hj]

/-- The ENGINE never stops: "total over its input domain" (R101). -/
theorem engineStep_total (s : State) : ∃ t, engineStep s = .next t := by
  unfold engineStep
  split <;> exact ⟨_, rfl⟩

/-- What a turn can do (R103, R118): RESET; an accepted word; or the ENGINE's step, with READY = 1 a wait. -/
inductive Turn (s : State) : State → Prop where
  | reset (d : HostDrive) (rest : List HostDrive) : s.host = d :: rest → d.reset = true →
      Turn s (applyReset { s with host := rest })
  | accept (w : Word) (rest : List HostDrive) (t : State) :
      s.host = { cmd := some w, reset := false } :: rest → s.job = .idle →
      acceptWord w { s with host := rest } = .next t → Turn s t
  | engine (host' : List HostDrive) (t : State) : (host' = s.host ∨ host' = s.host.tail) →
      Engine { s with host := host' } t → Turn s t

theorem step_next {s t : State} (h : step s = .next t) : Turn s t := by
  unfold step turn at h
  split at h
  next hh => exact .engine s.host t (.inl rfl) (engineStep_next.mp h)
  next d rest hh =>
    split at h
    next hr => cases h; exact .reset d rest hh hr
    next hr =>
      obtain ⟨cmd, r⟩ := d
      have hr : r = false := by simpa using hr
      subst hr
      unfold commandTurn at h
      split at h
      next hj =>
        have hj : s.job = .idle := (ready_eq_true s).mp hj
        split at h
        next w hw => cases hw; exact .accept w rest t hh hj h
        next hw =>
          cases h
          exact .engine rest _ (.inr (by rw [hh]; rfl)) (.wait hj)
      next hj =>
        split at h
        next w hw => exact .engine s.host t (.inl rfl) (engineStep_next.mp h)
        next hw => exact .engine rest t (.inr (by rw [hh]; rfl)) (engineStep_next.mp h)

/-- No turn's drive is made up: what remains of the HOST's list is the list, or its tail (log 1). -/
theorem host_after_step {s t : State} (h : step s = .next t) : t.host = s.host ∨ t.host = s.host.tail := by
  cases step_next h with
  | reset d rest hh hr => exact .inr (by simp [hh])
  | accept w rest t hh hj ha =>
    refine .inr ?_
    rcases acceptWord_next (s := { s with host := rest }) hj ha with ⟨i, -, hi⟩ | ⟨-, rfl⟩
    · cases hi <;> simp [hh, initialised, appended, padded]
    · simp [hh]
  | engine host' t hh he => cases he <;> exact hh

end Sys2Proof.Machine
end

