-- ==== Sys2Proof/Laws/Run.lean ====
section
/-! SUPPORT. Which registers are not at ⊥, in terms of PHASE, JOB and FILL; and running several steps: one
step first, or some steps first and then the rest. -/

namespace Sys2Proof.Machine

@[simp] theorem dataDefined_eq_true (s : State) : s.dataDefined = true ↔ s.phase ≠ .idle := by
  simp [State.dataDefined]

@[simp] theorem byteDefined_eq_true (s : State) (i : Nat) :
    s.byteDefined i = true ↔ s.phase = .streaming ∧ (s.job ≠ .idle ∨ i < s.fill.toNat) := by
  simp [State.byteDefined, State.busy]

@[simp] theorem runSteps_zero (s : State) : runSteps 0 s = .next s := rfl

theorem runSteps_succ (k : Nat) (s : State) : runSteps (k + 1) s = andThen (step s) (runSteps k) := by
  change Host.Core.run core (k + 1) s = andThen (core.step s) (runSteps k)
  simp only [Host.Core.run]
  cases core.step s <;> rfl

theorem runSteps_add (j k : Nat) (s : State) :
    runSteps (j + k) s = andThen (runSteps j s) (runSteps k) := by
  induction j generalizing s with
  | zero => rw [Nat.zero_add]; rfl
  | succ j ih =>
    rw [show j + 1 + k = j + k + 1 by omega, runSteps_succ, runSteps_succ]
    cases step s <;> simp [andThen, ih]

end Sys2Proof.Machine
end

