-- ==== Sys2Proof/Tests/Slice0.lean ====
section
/-! SUPPORT. The model's own tests, their expected values the spec's (spec/95_test_vectors.md, named T1 to T8
by its sections, and the examples of the rules), and a witness for the hypotheses of every obligation. -/

namespace Sys2Proof.Tests

open Sys2Proof.Machine

/- Many kernel evaluations side by side ask for more threads than the check's memory limit holds; one after
another they need one. -/
set_option Elab.async false

/-! ### Ill-formed terms, one for each check -/

theorem test_smoke_rsvd_set : CmdFields.rsvdClear ⟨0x02, 0x61, 0x0001⟩ = false := by decide
theorem test_smoke_data_on_init : CmdFields.dataAllowed ⟨0x01, 0x01, 0x0000⟩ = false := by decide
theorem test_smoke_reserved_opcode : CmdFields.opcodeDefined ⟨0x05, 0x00, 0x0000⟩ = false := by decide
theorem test_smoke_ill_formed_word_refused :
    CmdFields.wellFormed ⟨0x01, 0x01, 0x0000⟩ = false ∧ CmdFields.wellFormed ⟨0x02, 0x61, 0x0001⟩ = false ∧
    CmdFields.wellFormed ⟨0xFF, 0x00, 0x0000⟩ = false ∧ CmdFields.wellFormed ⟨0x02, 0xFF, 0x0000⟩ = true := by
  decide
theorem test_smoke_immediate_out_of_range :
    SourceLine.wellFormed (.update 256) = false ∧ SourceLine.wellFormed (.updates [1, 256]) = false ∧
    SourceLine.wellFormed (.digest [300]) = false ∧ SourceLine.wellFormed (.update 255) = true := by decide

/-! ### Decoding: each command's word written out from R48 and R49, RSVD ‖ DATA ‖ OPCODE -/

theorem test_decode_nop : decode (0b0000000000000000_00000000_00000000 : Word) = .legal .nop := by decide
theorem test_decode_init : decode (0b0000000000000000_00000000_00000001 : Word) = .legal .init := by decide
theorem test_decode_update :
    decode (0b0000000000000000_01100001_00000010 : Word) = .legal (.update 0x61) := by decide
theorem test_decode_finalize :
    decode (0b0000000000000000_00000000_00000011 : Word) = .legal .finalize := by decide
theorem test_decode_abort : decode (0b0000000000000000_00000000_00000100 : Word) = .legal .abort := by decide
theorem test_decode_reserved_opcode :
    decode (0b0000000000000000_00000000_00000101 : Word) = .illegal .reservedOpcode := by decide
/-- T2, 0x00008003: DATA ≠ 0 on FINALIZE. -/
theorem test_decode_data_on_finalize : decode 0x00008003 = .illegal .dataNotZero := by decide
/-- R52 tests RSVD before the opcode (R103). -/
theorem test_decode_rsvd_first : decode 0x00016102 = .illegal .reservedBitsSet := by decide
theorem test_decode_table_word :
    decodeTableWord 32 0x00006102 = some (.update 0x61) ∧ decodeTableWord 32 5 = none := by decide

/-! ### Small states -/

/-- The next state of an outcome. -/
def nextOf (r : Result) : Option State :=
  match r with
  | .next s => some s
  | .fault _ => none
  | .refused _ => none

/-- STREAMING after INIT and the message bytes `m`, fewer than 64, with READY = 1. -/
def streaming (m : List Byte) : State :=
  { State.reset with
    h := iv
    phase := .streaming
    buf := writeBytes State.reset.buf 0 m
    fill := BitVec.ofNat 7 m.length
    byteCount := BitVec.ofNat 64 m.length }

/-- `n` bytes 'a'. -/
def aaa (n : Nat) : List Byte := List.replicate n 0x61

/-- "abc". -/
def abc : List Byte := [0x61, 0x62, 0x63]

/-- A block waits: 64 bytes 'a' (JOB = DATA). -/
def busyData : State := { streaming (aaa 64) with job := .data }

/-- A block waits: the first final block of 56 bytes 'a' (JOB = PAD_MORE, T5). -/
def busyMore : State :=
  { streaming (aaa 56) with
    buf := writeBytes State.reset.buf 0 (aaa 56 ++ 0x80 :: List.replicate 7 0x00)
    fill := 0
    job := .padMore }

/-- A block waits: the final block of "abc" (JOB = PAD_LAST, the example of R63). -/
def busyLast : State :=
  { streaming abc with
    buf := writeBytes State.reset.buf 0 (abc ++ 0x80 :: List.replicate 59 0x00 ++ [0x18])
    fill := 0
    job := .padLast }

/-- The 64 bytes of `busyLast`'s block. -/
def abcBlock : List Byte := abc ++ 0x80 :: List.replicate 59 0x00 ++ [0x18]

/-- The digest of "abc" (S2 of T1). -/
def abcDigest : Words5 := ⟨0xA9993E36, 0x4706816A, 0xBA3E2571, 0x7850C26C, 0x9CD0D89D⟩

/-- FINALIZED with the digest of "abc". -/
def finalized : State :=
  { busyLast with h := abcDigest, digest := some abcDigest, phase := .finalized, job := .idle }

/-- ABORTED after one byte, CAUSE = SOURCE_READ_ERROR (T7). -/
def aborted : State := { streaming (aaa 1) with phase := .aborted, cause := .sourceReadError }

/-- The HOST presents the word `w` in the coming turn. -/
def presenting (w : Word) (s : State) : State := { s with host := [{ cmd := some w, reset := false }] }

/-- The HOST asks for RESET in the coming turn, with the word `w` on CMD. -/
def resetting (w : Word) (s : State) : State := { s with host := [{ cmd := some w, reset := true }] }

/-- The STATUS words after the command word `w` at once, and after the ENGINE has run to READY = 1. -/
def statusAfter (w : Word) (s : State) : Option Word × Option Word :=
  ((nextOf (acceptWord w s)).map State.status, (nextOf (commandTransition w s)).map State.status)

/-! ### Commands, at most two each, by the STATUS vectors of T7 and the examples of the rules -/

theorem test_reset_status : State.reset.status = 0x00000000 ∧ State.reset.ready = true := by decide +kernel
theorem test_nop_finalized : statusAfter 0x00000000 finalized = (some 0x0000000A, some 0x0000000A) := by
  decide +kernel
theorem test_init_after_reset : statusAfter 0x00000001 State.reset = (some 0x00000001, some 0x00000001) := by
  decide +kernel
theorem test_init_after_abort : statusAfter 0x00000001 aborted = (some 0x00000001, some 0x00000001) := by
  decide +kernel
/-- The example of R62: FILL = 63, UPDATE 0x41 fills the block. -/
theorem test_update_fills_block :
    (nextOf (exec (.update 0x41) (streaming (aaa 63)))).map
        (fun t => (t.buf[63], t.fill, t.byteCount, t.job, t.ready)) =
      some (0x41, 64, 64, .data, false) := by decide +kernel
/-- T7: STREAMING, FILL = 63, UPDATE: 0x5, then 0x1 once the ENGINE step is done. -/
theorem test_update_status :
    statusAfter 0x00006102 (streaming (aaa 63)) = (some 0x00000005, some 0x00000001) := by decide +kernel
/-- T7: STREAMING, FILL = 3, FINALIZE: 0x5, then 0xA. -/
theorem test_finalize_status :
    statusAfter 0x00000003 (streaming abc) = (some 0x00000005, some 0x0000000A) := by decide +kernel
/-- T7: STREAMING, FILL = 56, FINALIZE: 0x5 through two steps, then 0xA. -/
theorem test_finalize_two_blocks_status :
    statusAfter 0x00000003 (streaming (aaa 56)) = (some 0x00000005, some 0x0000000A) := by decide +kernel
/-- T7: STREAMING, FILL = 1, ABORT: 0x13. -/
theorem test_abort_streaming : statusAfter 0x00000004 (streaming (aaa 1)) = (some 0x00000013, some 0x00000013) := by
  decide +kernel
/-- R82: ABORT in FINALIZED is a SEQUENCE_ERROR, and DIGEST is kept. -/
theorem test_abort_finalized :
    (nextOf (exec .abort finalized)).map (fun t => (t.status, t.digestOut)) =
      some (0x0000003A, some abcDigest) := by decide +kernel
/-- T7: reset, UPDATE 0x78: 0x30. -/
theorem test_update_sequence_error : statusAfter 0x00007802 State.reset = (some 0x00000030, some 0x00000030) := by
  decide +kernel
/-- T7: STREAMING, FILL = 1, the ILLEGAL word 0x101: 0x23; reset, the ILLEGAL word 0x5: 0x20. -/
theorem test_illegal_word :
    statusAfter 0x00000101 (streaming (aaa 1)) = (some 0x00000023, some 0x00000023) ∧
    statusAfter 0x00000005 State.reset = (some 0x00000020, some 0x00000020) := by decide +kernel
/-- T7: FINALIZED, CAUSE = 3, an ILLEGAL word changes nothing. -/
theorem test_cause_sticky :
    statusAfter 0x00000005 { finalized with cause := .sequenceError } = (some 0x0000003A, some 0x0000003A) := by
  decide +kernel
/-- R118: a word presented while READY = 0 stays presented, and the ENGINE moves. -/
theorem test_held_word :
    (nextOf (step (presenting 0x00000003 busyData))).map (fun t => (t.host.length, t.ready, t.fill)) =
      some (1, true, 0) := by decide +kernel
/-- R103, R113: RESET beats the command and the ENGINE step. -/
theorem test_reset_preempts : nextOf (step (resetting 0x00000001 busyData)) = some State.reset := by decide +kernel
theorem test_placed_word : nextOf (step (State.reset.withFetchWord 32 0x00000001)) = nextOf (exec .init State.reset) := by
  decide +kernel

/-! ### Padding and the length field (T5, T6) -/

theorem test_pad_55 : (padFinal 55 (lengthField 55) (streaming (aaa 55)).buf).toList =
    aaa 55 ++ [0x80, 0x00, 0x00, 0x00, 0x00, 0x00, 0x00, 0x01, 0xB8] := by decide +kernel
theorem test_pad_56 : (padFinal 56 (lengthField 56) (streaming (aaa 56)).buf).toList =
    aaa 56 ++ 0x80 :: List.replicate 7 0x00 := by decide +kernel
theorem test_pad_63 : (padFinal 63 (lengthField 63) (streaming (aaa 63)).buf).toList =
    aaa 63 ++ [0x80] := by decide +kernel
/-- The block after 64 bytes 'a': old bytes of BUF leave no trace. -/
theorem test_pad_0_over_old_bytes : (padFinal 0 (lengthField 64) busyData.buf).toList =
    (0x80 : Byte) :: List.replicate 55 0x00 ++ [0x00, 0x00, 0x00, 0x00, 0x00, 0x00, 0x02, 0x00] := by decide +kernel
theorem test_pad_second : (padSecond (lengthField 56) busyMore.buf).toList =
    List.replicate 56 (0x00 : Byte) ++ [0x00, 0x00, 0x00, 0x00, 0x00, 0x00, 0x01, 0xC0] := by decide +kernel
theorem test_length_wraps : lengthField 0x1FFFFFFFFFFFFFFF = 0xFFFFFFFFFFFFFFF8 ∧
    lengthField 0x2000000000000000 = 0 ∧ lengthField 0xFFFFFFFFFFFFFFFF = 0xFFFFFFFFFFFFFFF8 := by decide

/-! ### Scheduler, rounds and the ENGINE step (T3, T4) -/

theorem test_rotl : rotl 0x80000000 1 = 0x00000001 ∧ rotl 0x12345678 5 = 0x468ACF02 ∧
    rotl 0x12345678 30 = 0x048D159E ∧ rotl 0xFFFFFFFF 5 = 0xFFFFFFFF := by decide
theorem test_schedule_abc :
    [0, 15, 16, 17, 18, 19, 79].map (fun t => (schedule abcBlock).getD t 1) =
      [0x61626380, 0x00000018, 0xC2C4C700, 0x00000000, 0x00000030, 0x85898E01, 0x822E0879] := by decide +kernel
theorem test_schedule_ones :
    [15, 16, 17, 79].map (fun t => (schedule (List.replicate 64 0xFF)).getD t 1) =
      [0xFFFFFFFF, 0x00000000, 0x00000000, 0xFFFFFFFF] := by decide +kernel
theorem test_f_at_boundaries :
    [0, 19, 20, 39, 40, 59, 60, 79].map (fun t => roundF t 0xF0F0F0F0 0xFF00FF00 0x0F0F0F0F) =
      [0xFF0FFF0F, 0xFF0FFF0F, 0x00FF00FF, 0x00FF00FF, 0xFF00FF00, 0xFF00FF00, 0x00FF00FF, 0x00FF00FF] := by
  decide +kernel
theorem test_k_at_boundaries :
    [0, 19, 20, 39, 40, 59, 60, 79].map roundK =
      [0x5A827999, 0x5A827999, 0x6ED9EBA1, 0x6ED9EBA1, 0x8F1BBCDC, 0x8F1BBCDC, 0xCA62C1D6, 0xCA62C1D6] := by
  decide +kernel
/-- The round states of "abc" after rounds 0, 20, 40, 60 and 79. -/
theorem test_round_states :
    [1, 21, 41, 61, 80].map (fun n => roundsFrom 0 iv ((schedule abcBlock).take n)) =
      [⟨0x0116FC33, 0x67452301, 0x7BF36AE2, 0x98BADCFE, 0x10325476⟩,
       ⟨0x1A37B0CA, 0xFD9E1D7D, 0x77192407, 0x20AA99CA, 0xD3A49608⟩,
       ⟨0xFC87DEDF, 0x32DE1CBA, 0x53261901, 0xF718E5CF, 0x03D447F6⟩,
       ⟨0xD756C147, 0x3F52DE5A, 0x4275E17F, 0x3498BFD4, 0xF211824F⟩,
       ⟨0x42541B35, 0x5738D5E1, 0x21834873, 0x681E6DF6, 0xD8FDF6AD⟩] := by decide +kernel
/-- The BLOCKSTEP corner cases: an all-zero block from H = 0 and from the IV. -/
theorem test_zero_blocks :
    blockTransform ⟨0, 0, 0, 0, 0⟩ (List.replicate 64 0) =
      ⟨0x9E1547ED, 0x57EC91C2, 0x30FA8BC8, 0xC7785A54, 0xA7EFA5E3⟩ ∧
    blockTransform iv (List.replicate 64 0) =
      ⟨0x92B404E5, 0x56588CED, 0x6C1ACD4E, 0xBF053F68, 0x09F73A93⟩ := by decide +kernel
/-- The example of R79, and the digest of "abc" on the ports. -/
theorem test_engine_abc : (nextOf (engineStep busyLast)).map State.outputs =
    some { ready := true, status := 0x0000000A, digest := some abcDigest } := by decide +kernel
theorem test_digest_bytes : digestBytes abcDigest =
    [0xa9, 0x99, 0x3e, 0x36, 0x47, 0x06, 0x81, 0x6a, 0xba, 0x3e, 0x25, 0x71, 0x78, 0x50, 0xc2, 0x6c, 0x9c, 0xd0,
     0xd8, 0x9d] := by decide
/-- T8 table D: 56 bytes 'a', two final blocks. -/
theorem test_digest_56 : messageDigest (aaa 56) =
    ⟨0xC2DB330F, 0x6083854C, 0x99D4B5BF, 0xB6E8F29F, 0x201BE699⟩ := by decide +kernel
/-- The second core of a system does not move with the first (R110). -/
theorem test_instances :
    (match System.stepInstance 0 [presenting 0x00000001 State.reset, State.reset] with
      | .next sys => sys.map State.status
      | .fault _ => []
      | .refused _ => []) = [0x00000001, 0x00000000] := by decide +kernel

/-! ### An index past BUF[63] stops by name (R21, R22) -/

theorem test_buffer_index_faults :
    (match exec .finalize { streaming (aaa 64) with job := .idle } with
      | .fault r => some r
      | .next _ => none
      | .refused _ => none) = some .bufferIndex := by decide +kernel

/-! ### Assembler text (R55, R56, R59) -/

theorem test_asm_update_char : parseLine "UPDATE 'a'".toList = .line (.update 0x61) := by decide +kernel
theorem test_asm_update_hex : parseLine "  UPDATE 0xFF ; last byte".toList = .line (.update 255) := by decide +kernel
theorem test_asm_update_decimal : parseLine "UPDATE 128".toList = .line (.update 128) := by decide +kernel
theorem test_asm_comment_only : parseLine "; nothing".toList = .blank := by decide +kernel
theorem test_asm_lower_case : parseLine "init".toList = .error := by decide +kernel
theorem test_asm_updates_list : parseLine "UPDATES 1, 0x02,'c'".toList = .line (.updates [1, 2, 0x63]) := by
  decide +kernel
theorem test_asm_updates_empty : parseLine "UPDATES \"\"".toList = .line (.updates []) := by decide +kernel
theorem test_asm_digest : parseLine "DIGEST \"abc\"".toList = .line (.digest [0x61, 0x62, 0x63]) := by
  decide +kernel
theorem test_asm_wait : parseLine "WAIT".toList = .line .wait ∧ assemble .wait = some [] := by decide +kernel
theorem test_asm_words : assemble (.digest [0x61]) = some [0x00000001, 0x00006102, 0x00000003] := by decide +kernel

/-! ### Witnesses: states and operands that meet the hypotheses of the obligations -/

/-- The invariant, by checks that can be evaluated. -/
theorem inv_of_checks {s : State}
    (h1 : s.phase = .streaming → s.cause = .none) (h2 : s.phase = .aborted → s.cause ≠ .none)
    (h3 : s.job ≠ .idle → s.phase = .streaming)
    (h4 : (s.job = .idle → s.fill.toNat < 64) ∧ (s.job = .data → s.fill.toNat = 64) ∧
      (s.job = .padMore → s.fill.toNat = 0) ∧ (s.job = .padLast → s.fill.toNat = 0))
    (h5 : s.phase = .streaming → (s.job = .idle → s.byteCount.toNat % 64 = s.fill.toNat) ∧
      (s.job = .data → s.byteCount.toNat % 64 = 0) ∧ (s.job = .padMore → 56 ≤ s.byteCount.toNat % 64))
    (h6 : s.digest.isSome = true ↔ s.phase = .finalized)
    (h7 : s.phase = .finalized → s.digest = some s.h) : s.Inv where
  streaming_cause := h1
  aborted_cause := h2
  job_streaming := h3
  fill_legal _ := by cases hj : s.job <;> simp_all
  count_fill hp := by cases hj : s.job <;> simp_all
  digest_finalized := h6
  finalized_digest := h7

theorem inv_host_irrelevant {s : State} (h : s.Inv) (x : List HostDrive) : State.Inv { s with host := x } :=
  { streaming_cause := h.streaming_cause, aborted_cause := h.aborted_cause, job_streaming := h.job_streaming,
    fill_legal := h.fill_legal, count_fill := h.count_fill, digest_finalized := h.digest_finalized,
    finalized_digest := h.finalized_digest }

/-- With JOB = IDLE no final block waits. -/
theorem padInv_of_idle {s : State} (h : s.job = .idle) : s.PadInv :=
  ⟨by simp [h], by simp [h], by simp [h], by simp [h]⟩

theorem reset_inv : State.reset.Inv := by
  constructor <;> simp

theorem streaming_inv : (streaming (aaa 63)).Inv := by
  apply inv_of_checks <;> decide +kernel
theorem busyData_inv : busyData.Inv := by apply inv_of_checks <;> decide +kernel
theorem busyMore_inv : busyMore.Inv := by apply inv_of_checks <;> decide +kernel
theorem busyLast_inv : busyLast.Inv := by apply inv_of_checks <;> decide +kernel
theorem finalized_inv : finalized.Inv := by apply inv_of_checks <;> decide +kernel
theorem aborted_inv : aborted.Inv := by apply inv_of_checks <;> decide +kernel

/-- `PlacedWordRuns`, `StepRunsDecodedCommand`: one word for each clause. -/
theorem witness_StepRunsDecodedCommand :
    (presenting 0x00006102 State.reset).host = [{ cmd := some 0x00006102, reset := false }] ∧
    (presenting 0x00006102 State.reset).job = .idle ∧ decode 0x00006102 = .legal (.update 0x61) ∧
    (presenting 0x00000005 State.reset).host = [{ cmd := some 0x00000005, reset := false }] ∧
    (decode 0x00000005).instr? = none := by decide +kernel
theorem witness_PlacedWordRuns :
    State.reset.job = .idle ∧ decodeTableWord 32 0x00006102 = some (.update 0x61) := by decide +kernel
theorem witness_ResetPreemptsEverything :
    (resetting 0x00000001 busyData).host = { cmd := some 0x00000001, reset := true } :: [] := by decide +kernel
theorem witness_DigestPortsAndBytes : State.reset.phase ≠ .finalized ∧ finalized.phase = .finalized := by
  decide +kernel
theorem witness_NopWritesNothing : State.reset.job = .idle ∧ finalized.job = .idle := by decide +kernel
theorem witness_InitBeginsComputation : aborted.job = .idle ∧ finalized.job = .idle := by decide +kernel
/-- `UpdateAppendsByte` at FILL = 0 and FILL = 63. -/
theorem witness_UpdateAppendsByte :
    ((streaming []).job = .idle ∧ (streaming []).phase = .streaming ∧ (streaming []).fill.toNat = 0) ∧
    ((streaming (aaa 63)).job = .idle ∧ (streaming (aaa 63)).phase = .streaming ∧
      (streaming (aaa 63)).fill.toNat = 63) := by decide +kernel
/-- `FinalizeWritesPadding` on both sides of FILL = 55, where its clauses meet. -/
theorem witness_FinalizeWritesPadding :
    ((streaming (aaa 55)).job = .idle ∧ (streaming (aaa 55)).phase = .streaming ∧
      (streaming (aaa 55)).fill.toNat = 55) ∧
    ((streaming (aaa 56)).job = .idle ∧ (streaming (aaa 56)).phase = .streaming ∧
      (streaming (aaa 56)).fill.toNat = 56) := by decide +kernel
theorem witness_AbortEndsComputation :
    (streaming (aaa 1)).job = .idle ∧ (streaming (aaa 1)).phase = .streaming := by decide +kernel
theorem witness_SequenceErrorOutsideStreaming :
    State.reset.job = .idle ∧ State.reset.phase ≠ .streaming ∧ finalized.job = .idle ∧
    finalized.phase ≠ .streaming := by decide +kernel
/-- `CommandFrames`, with BUF[k] below FILL (k = 0 < 1), and off FILL's place (k = 2). -/
theorem witness_CommandFrames :
    exec (.update 0x62) (streaming (aaa 1)) = .next
      { streaming (aaa 1) with
        buf := (streaming (aaa 1)).buf.setIfInBounds 1 0x62, fill := 2, byteCount := 2 } ∧
    (streaming (aaa 1)).fill.toNat = 1 ∧ 0 < 1 ∧ 2 ≠ 1 :=
  ⟨rfl, by decide, by decide, by decide⟩
theorem witness_CommandsHeldWhileBusy : busyData.job ≠ .idle := by decide +kernel
theorem witness_ScheduleRecurrence :
    abcBlock.length = 64 ∧ (15 < 16) ∧ (16 ≤ 16 ∧ 16 < 80) ∧ (16 ≤ 79 ∧ 79 < 80) := by decide +kernel
theorem witness_RoundFunctionAndConstant :
    19 ≤ 19 ∧ (20 ≤ 20 ∧ 39 ≤ 39) ∧ (40 ≤ 40 ∧ 59 ≤ 59) ∧ (60 ≤ 60 ∧ 79 ≤ 79) := by decide
theorem witness_RoundResult : 79 < 80 := by decide
theorem witness_CompressIsEightyRounds : (schedule abcBlock).length = 80 := by decide +kernel
theorem witness_WindowedScheduleEquivalent : abcBlock.length = 64 := by decide +kernel
theorem witness_AccumulateAddsWords : (List.replicate 64 (0 : Byte)).length = 64 := by decide +kernel
theorem witness_EngineDataStep : busyData.job = .data := by decide +kernel
theorem witness_EnginePadMoreStep : busyMore.job = .padMore := by decide +kernel
theorem witness_EnginePadLastStep : busyLast.job = .padLast := by decide +kernel
theorem witness_ErrorEventWritesCauseAndPhase : aborted.phase = .aborted ∧ aborted.cause ≠ .none := by
  decide +kernel
theorem witness_IllegalWordRaisesIllegalCommand :
    (streaming (aaa 1)).job = .idle ∧ (decode 0x00000101).instr? = none := by decide +kernel
theorem witness_CauseStaysUntilInitOrReset :
    aborted.cause ≠ .none ∧
    (∃ t, step (presenting 0x00000001 aborted) = .next t ∧ t.cause ≠ aborted.cause) ∧
    (∃ t, step (resetting 0x00000000 aborted) = .next t ∧ t.cause ≠ aborted.cause) :=
  ⟨by decide +kernel, ⟨_, rfl, by decide +kernel⟩, ⟨_, rfl, by decide +kernel⟩⟩
theorem witness_BusyTurnIsTheEnginesAlone :
    (presenting 0x00000003 busyData).job ≠ .idle ∧
    (presenting 0x00000003 busyData).host = { cmd := some 0x00000003, reset := false } :: [] ∧
    (nextOf (step (presenting 0x00000003 busyData))).isSome = true ∧
    State.host { busyData with host := [{ cmd := none, reset := false }] } =
      { cmd := none, reset := false } :: [] ∧
    (nextOf (step { busyData with host := [{ cmd := none, reset := false }] })).isSome = true ∧
    busyData.host = [] ∧ (nextOf (step busyData)).isSome = true := by decide +kernel
theorem witness_ReadyCoreWaits :
    State.reset.job = .idle ∧ State.reset.host = [] ∧
    State.host { State.reset with host := [{ cmd := none, reset := false }] } =
      { cmd := none, reset := false } :: [] := by decide +kernel
theorem witness_InstancesShareNothing :
    System.stepInstance 0 [presenting 0x00000000 State.reset, State.reset] = .next [State.reset, State.reset] :=
  rfl
theorem witness_InvRunsAreSafe :
    State.reset.Inv ∧ (streaming (aaa 63)).Inv ∧ busyData.Inv ∧ busyMore.Inv ∧ busyLast.Inv ∧
    finalized.Inv ∧ aborted.Inv :=
  ⟨reset_inv, streaming_inv, busyData_inv, busyMore_inv, busyLast_inv, finalized_inv, aborted_inv⟩
/-- `StepKeepsPadInv`: steps that end in each of the waiting blocks, the one final block at n = 55 and the
two at n = 56, where the clauses meet. -/
theorem witness_StepKeepsPadInv :
    (State.Inv (presenting 0x00000003 (streaming (aaa 55))) ∧
      State.PadInv (presenting 0x00000003 (streaming (aaa 55))) ∧
      (nextOf (step (presenting 0x00000003 (streaming (aaa 55))))).map State.job = some .padLast) ∧
    (State.Inv (presenting 0x00000003 (streaming (aaa 56))) ∧
      State.PadInv (presenting 0x00000003 (streaming (aaa 56))) ∧
      (nextOf (step (presenting 0x00000003 (streaming (aaa 56))))).map State.job = some .padMore) ∧
    (busyMore.Inv ∧ busyMore.PadInv ∧ (nextOf (step busyMore)).map State.job = some .padLast) := by
  refine ⟨⟨?_, padInv_of_idle rfl, by decide +kernel⟩, ⟨?_, padInv_of_idle rfl, by decide +kernel⟩,
    busyMore_inv,
    ⟨by simp [busyMore], by simp [busyMore], by simp [busyMore], fun _ => by decide +kernel⟩,
    by decide +kernel⟩
  · apply inv_of_checks <;> decide +kernel
  · apply inv_of_checks <;> decide +kernel
/-- `BottomIsNeverRead`: after RESET every register at ⊥ may differ, and in STREAMING the bytes of BUF from
FILL on. -/
theorem witness_BottomIsNeverRead :
    (State.reset.Inv ∧ State.Inv { State.reset with h := iv, fill := 100, byteCount := 9 } ∧
      State.SameButBottom State.reset { State.reset with h := iv, fill := 100, byteCount := 9 }) ∧
    ((streaming (aaa 63)).Inv ∧
      State.Inv { streaming (aaa 63) with buf := writeBytes State.reset.buf 0 (aaa 64) } ∧
      State.SameButBottom (streaming (aaa 63))
        { streaming (aaa 63) with buf := writeBytes State.reset.buf 0 (aaa 64) }) := by
  refine ⟨⟨reset_inv, by constructor <;> simp, by constructor <;> simp [State.dataDefined, State.byteDefined]⟩,
    streaming_inv, ?_, rfl, rfl, rfl, rfl, rfl, fun _ => ⟨rfl, rfl, rfl⟩, ?_⟩
  · apply inv_of_checks <;> decide +kernel
  · decide +kernel
/-- `PhaseChanges`, `HashAndDigestWriters`: one turn for each of the four changes. -/
theorem witness_PhaseChanges :
    (State.Inv (resetting 0x00000000 aborted) ∧
      (nextOf (step (resetting 0x00000000 aborted))).map State.phase = some .idle) ∧
    (State.Inv (presenting 0x00000001 aborted) ∧
      (nextOf (step (presenting 0x00000001 aborted))).map State.phase = some .streaming) ∧
    (busyLast.Inv ∧ (nextOf (step busyLast)).map State.phase = some .finalized) ∧
    (State.Inv (presenting 0x00000004 (streaming (aaa 63))) ∧
      (nextOf (step (presenting 0x00000004 (streaming (aaa 63))))).map State.phase = some .aborted) :=
  ⟨⟨inv_host_irrelevant aborted_inv _, by decide +kernel⟩, ⟨inv_host_irrelevant aborted_inv _, by decide +kernel⟩,
    ⟨busyLast_inv, by decide +kernel⟩, ⟨inv_host_irrelevant streaming_inv _, by decide +kernel⟩⟩
theorem witness_EndedComputationOutcome :
    (finalized.Inv ∧ finalized.ended = true ∧ finalized.dvalid = true) ∧ (aborted.Inv ∧ aborted.ended = true) :=
  ⟨⟨finalized_inv, by decide +kernel, by decide +kernel⟩, ⟨aborted_inv, by decide +kernel⟩⟩
theorem witness_EngineReachesReady :
    (busyMore.Inv ∧ busyMore.noReset ∧ busyMore.job ≠ .idle) ∧
    (busyData.Inv ∧ busyData.noReset ∧ busyData.job ≠ .idle) :=
  ⟨⟨busyMore_inv, by simp [State.noReset, busyMore, streaming], by decide +kernel⟩,
    ⟨busyData_inv, by simp [State.noReset, busyData, streaming], by decide +kernel⟩⟩
theorem witness_CommandTransitionAgrees :
    State.Inv { streaming (aaa 63) with host := present [0x00006102, 0x00000003] } ∧
    (streaming (aaa 63)).job = .idle :=
  ⟨inv_host_irrelevant streaming_inv _, by decide +kernel⟩
theorem witness_DigestOfEveryMessage :
    State.Inv { aborted with host := present ((digestOf abc).map encode) } ∧ aborted.job = .idle :=
  ⟨inv_host_irrelevant aborted_inv _, by decide +kernel⟩
theorem witness_InitForgetsThePast :
    (presenting (encode .init) (streaming (aaa 63))).job = .idle ∧ (presenting (encode .init) finalized).job = .idle ∧
    (presenting (encode .init) (streaming (aaa 63))).host = { cmd := some (encode .init), reset := false } :: [] ∧
    (presenting (encode .init) finalized).host = (presenting (encode .init) (streaming (aaa 63))).host := by
  decide +kernel
theorem witness_AbortedIsTerminal :
    State.Inv (presenting 0x00000003 aborted) ∧ (presenting 0x00000003 aborted).phase = .aborted ∧
    ∀ d ∈ (presenting 0x00000003 aborted).host, d.reset = false ∧ d.cmd ≠ some (encode .init) :=
  ⟨inv_host_irrelevant aborted_inv _, by decide +kernel, by simp [presenting]; decide⟩
theorem witness_DigestImmutableWhileFinalized :
    State.Inv (presenting 0x00000002 finalized) ∧ (presenting 0x00000002 finalized).phase = .finalized ∧
    ∀ d ∈ (presenting 0x00000002 finalized).host, d.reset = false ∧ d.cmd ≠ some (encode .init) :=
  ⟨inv_host_irrelevant finalized_inv _, by decide +kernel, by simp [presenting]; decide⟩
theorem witness_AssemblerWords :
    255 < 256 ∧ 256 ≤ 256 ∧ (∀ b ∈ [(0 : Nat), 255], b < 256) ∧ ∃ b ∈ [(1 : Nat), 256], 256 ≤ b := by decide

end Sys2Proof.Tests
end

section
/-! PROOFS. The DIGEST ports and the byte view of the digest (O5), and INIT (O10); spec/10_state.md. -/

namespace Sys2Proof.Machine

/-! ### The DIGEST ports (R27) -/

theorem digestOut_of_finalized {s : State} (h : s.phase = .finalized) : s.digestOut = s.digest :=
  if_pos h

theorem digestOut_of_ne_finalized {s : State} (h : s.phase ≠ .finalized) : s.digestOut = none :=
  if_neg h

/-! ### The digest's bytes (R28, R39) -/

/-- Byte j of BE32BYTES (R9), counted from the most significant end. -/
theorem be32Bytes_getElem? (x : Word) (j : Fin 4) :
    (be32Bytes x)[j.val]? = some (x.extractLsb' (24 - 8 * j.val) 8) :=
  match j with
  | 0 | 1 | 2 | 3 => rfl

/-- Four bytes a word: byte `4 * i + j` of a run of words is byte j of word i. -/
theorem flatMap_be32Bytes_getElem? (ws : List Word) (i : Nat) (j : Fin 4) :
    (ws.flatMap be32Bytes)[4 * i + j.val]? = ws[i]?.bind fun w => (be32Bytes w)[j.val]? := by
  induction ws generalizing i with
  | nil => simp
  | cons w ws ih =>
    rw [List.flatMap_cons]
    cases i with
    | zero => rw [Nat.mul_zero, Nat.zero_add, List.getElem?_append_left j.isLt]; rfl
    | succ i =>
      have skip : 4 * (i + 1) + j.val - (be32Bytes w).length = 4 * i + j.val := by
        rw [be32Bytes_length]; omega
      rw [List.getElem?_append_right (by rw [be32Bytes_length]; omega), skip, ih,
        List.getElem?_cons_succ]

/-- The five words in index order (R10). -/
theorem words_getElem? (d : Words5) (i : Fin 5) :
    [d.w0, d.w1, d.w2, d.w3, d.w4][i.val]? = some (wordAt d i) :=
  match i with
  | 0 | 1 | 2 | 3 | 4 => rfl

theorem digestBytes_eq_flatMap (d : Words5) :
    digestBytes d = [d.w0, d.w1, d.w2, d.w3, d.w4].flatMap be32Bytes := rfl

theorem digestBytes_getElem? (d : Words5) (i : Fin 5) (j : Fin 4) :
    (digestBytes d)[4 * i.val + j.val]? = some ((wordAt d i).extractLsb' (24 - 8 * j.val) 8) := by
  rw [digestBytes_eq_flatMap, flatMap_be32Bytes_getElem?, words_getElem?, Option.bind_some,
    be32Bytes_getElem?]

/-- Settles O5: the ports' two cases, and the bytes of five words four at a time. -/
theorem digestPortsAndBytes : Obligations.DigestPortsAndBytes :=
  ⟨fun _ => digestOut_of_ne_finalized, fun _ => digestOut_of_finalized, digestBytes_getElem?,
    digestBytes_length⟩

/-! ### INIT (R14, R84) -/

/-- With READY = 1, INIT is accepted in every PHASE (R84). -/
theorem exec_init_of_idle {s : State} (h : s.job = .idle) : exec .init s = .next (initialised s) :=
  whenReady_of_idle h _

/-- Settles O10: INIT is accepted, and the state it makes has the fields of R84. -/
theorem initBeginsComputation : Obligations.InitBeginsComputation :=
  fun _ => exec_init_of_idle

end Sys2Proof.Machine
end

section
/-! PROOFS. The message schedule (O19): how its words grow; spec/41_scheduler.md. -/

namespace Sys2Proof.Machine

/-- The word R71 puts at index t, from the words before t of the list `w`. -/
def recurrenceWord (w : List Word) (t : Nat) : Word :=
  rotl (w.getD (t - 3) 0 ^^^ w.getD (t - 8) 0 ^^^ w.getD (t - 14) 0 ^^^ w.getD (t - 16) 0) 1

theorem nextWord_eq_append (w : List Word) : nextWord w = w ++ [recurrenceWord w w.length] := rfl

@[simp] theorem nextWord_length (w : List Word) : (nextWord w).length = w.length + 1 := by
  rw [nextWord_eq_append, List.length_append, List.length_singleton]

theorem nextWord_getD_of_lt {w : List Word} {t : Nat} (h : t < w.length) :
    (nextWord w).getD t 0 = w.getD t 0 := by
  rw [nextWord_eq_append, List.getD_eq_getElem?_getD, List.getElem?_append_left h,
    ← List.getD_eq_getElem?_getD]

theorem nextWord_getD_length (w : List Word) :
    (nextWord w).getD w.length 0 = recurrenceWord w w.length := by
  rw [nextWord_eq_append, List.getD_eq_getElem?_getD, List.getElem?_concat_length, Option.getD_some]

@[simp] theorem moreWords_length (n : Nat) (w : List Word) :
    (moreWords n w).length = w.length + n := by
  induction n generalizing w with
  | zero => rfl
  | succ n ih => rw [moreWords, ih, nextWord_length]; omega

/-- The expansion keeps the words it starts from. -/
theorem moreWords_getD_of_lt (n : Nat) {w : List Word} {t : Nat} (h : t < w.length) :
    (moreWords n w).getD t 0 = w.getD t 0 := by
  induction n generalizing w with
  | zero => rfl
  | succ n ih => rw [moreWords, ih (by rw [nextWord_length]; omega), nextWord_getD_of_lt h]

/-- The recurrence at t reads only words before t. -/
theorem recurrenceWord_congr {v w : List Word} {t : Nat} (ht : 0 < t)
    (h : ∀ i < t, v.getD i 0 = w.getD i 0) : recurrenceWord v t = recurrenceWord w t := by
  simp only [recurrenceWord, h (t - 3) (by omega), h (t - 8) (by omega), h (t - 14) (by omega),
    h (t - 16) (by omega)]

/-- Each word the expansion adds meets the recurrence in the finished list: the word was made from the
list as it stood then, and the expansion keeps those words. -/
theorem moreWords_getD_eq_recurrenceWord {n t : Nat} {w : List Word} (hw : 0 < w.length)
    (hle : w.length ≤ t) (hlt : t < w.length + n) :
    (moreWords n w).getD t 0 = recurrenceWord (moreWords n w) t := by
  induction n generalizing w with
  | zero => omega
  | succ n ih =>
    obtain rfl | hgt := Nat.eq_or_lt_of_le hle
    · calc (moreWords (n + 1) w).getD w.length 0
          = (nextWord w).getD w.length 0 := moreWords_getD_of_lt n (by rw [nextWord_length]; omega)
        _ = recurrenceWord w w.length := nextWord_getD_length w
        _ = recurrenceWord (moreWords (n + 1) w) w.length :=
            recurrenceWord_congr hw fun _ hi => (moreWords_getD_of_lt (n + 1) hi).symm
    · exact ih (by rw [nextWord_length]; omega) (by rwa [nextWord_length])
        (by rw [nextWord_length]; omega)

/-- A block has 16 words (R37). -/
theorem blockWords_length_of_block {b : List Byte} (hb : b.length = 64) :
    (blockWords b).length = 16 := by
  rw [blockWords_length, hb]

theorem schedule_length {b : List Byte} (hb : b.length = 64) : (schedule b).length = 80 := by
  rw [schedule, moreWords_length, blockWords_length_of_block hb]

/-- The first 16 words are the block's (R71). -/
theorem schedule_getD_of_lt {b : List Byte} (hb : b.length = 64) {t : Nat} (ht : t < 16) :
    (schedule b).getD t 0 = (blockWords b).getD t 0 :=
  moreWords_getD_of_lt 64 (by rwa [blockWords_length_of_block hb])

/-- The other 64 words meet the recurrence (R71). -/
theorem schedule_getD_eq_recurrenceWord {b : List Byte} (hb : b.length = 64) {t : Nat}
    (hle : 16 ≤ t) (hlt : t < 80) : (schedule b).getD t 0 = recurrenceWord (schedule b) t := by
  have hw := blockWords_length_of_block hb
  exact moreWords_getD_eq_recurrenceWord (by omega) (by omega) (by omega)

/-- Settles O19: the expansion keeps the block's 16 words, and each word it adds meets the recurrence. -/
theorem scheduleRecurrence : Obligations.ScheduleRecurrence := fun b hb => by
  refine ⟨schedule_length hb, fun t ht => ?_, fun t hle hlt => ?_⟩
  · rw [schedule_getD_of_lt hb ht, blockWords_getD b t (by omega), be32]
  · rw [schedule_getD_eq_recurrenceWord hb hle hlt, recurrenceWord,
      rotl_eq_rotateLeft _ (by decide)]

end Sys2Proof.Machine
end

section
/-! PROOFS. Which words are ILLEGAL (O3): the decoder accepts exactly the commands' fields,
which are those that pass the three checks, and the checks are arithmetic on the word; spec/30_encoding.md. -/

namespace Sys2Proof

/-! ### The decoder accepts each command's fields and no others (R52) -/

theorem decodeFields_fields (i : Instr) : decodeFields i.fields = .legal i := by
  cases i <;> simp [decodeFields, Instr.fields]

/-- Each test of the decoder's chain that answers a command has fixed the fields the command has. -/
theorem eq_fields_of_decodeFields {f : CmdFields} {i : Instr} (h : decodeFields f = .legal i) :
    f = i.fields := by
  obtain ⟨op, d, r⟩ := f
  simp only [decodeFields] at h
  repeat' split at h
  all_goals cases h
  all_goals simp_all only [Instr.fields, ne_eq, Decidable.not_not]

theorem decodeFields_eq_legal_iff (f : CmdFields) (i : Instr) :
    decodeFields f = .legal i ↔ f = i.fields :=
  ⟨eq_fields_of_decodeFields, fun h => h ▸ decodeFields_fields i⟩

theorem Decoded.instr?_eq_none_iff (d : Decoded) : d.instr? = none ↔ ∀ i, d ≠ .legal i := by
  cases d <;> simp [Decoded.instr?]

/-! ### The three checks on a word's fields (R49 to R51) -/

theorem opcodeDefined_iff (f : CmdFields) :
    f.opcodeDefined = true ↔
      f.opcode = 0 ∨ f.opcode = 1 ∨ f.opcode = 2 ∨ f.opcode = 3 ∨ f.opcode = 4 := by
  simp only [CmdFields.opcodeDefined, decide_eq_true_eq, ← BitVec.toNat_inj, BitVec.ofNat_eq_ofNat,
    BitVec.toNat_ofNat]
  omega

theorem wellFormed_iff (f : CmdFields) :
    f.wellFormed = true ↔ f.rsvd = 0 ∧ (f.opcode = 2 ∨ f.data = 0) ∧ f.opcodeDefined = true := by
  simp [CmdFields.wellFormed, CmdFields.rsvdClear, CmdFields.dataAllowed, and_assoc]

/-- The checks name the legal words' fields: one command for each defined opcode. -/
theorem exists_eq_fields_iff_wellFormed (f : CmdFields) :
    (∃ i : Instr, f = i.fields) ↔ f.wellFormed = true := by
  constructor
  · rintro ⟨i, rfl⟩
    exact fields_wellFormed i
  · obtain ⟨op, d, r⟩ := f
    rw [wellFormed_iff, opcodeDefined_iff]
    rintro ⟨rfl, hd, rfl | rfl | rfl | rfl | rfl⟩
    · exact ⟨.nop, by simpa [Instr.fields] using hd⟩
    · exact ⟨.init, by simpa [Instr.fields] using hd⟩
    · exact ⟨.update d, rfl⟩
    · exact ⟨.finalize, by simpa [Instr.fields] using hd⟩
    · exact ⟨.abort, by simpa [Instr.fields] using hd⟩

/-- The decoder rejects exactly the fields that fail the checks. -/
theorem decodeFields_instr?_eq_none_iff (f : CmdFields) :
    (decodeFields f).instr? = none ↔ ¬ f.wellFormed = true := by
  simp only [Decoded.instr?_eq_none_iff, ne_eq, decodeFields_eq_legal_iff, ← not_exists,
    exists_eq_fields_iff_wellFormed]

/-- Fields fail the checks when one of the three does. -/
theorem not_wellFormed_iff (f : CmdFields) :
    ¬ f.wellFormed = true ↔
      f.rsvd.toNat ≠ 0 ∨ (f.data.toNat ≠ 0 ∧ f.opcode.toNat ≠ 2) ∨ 5 ≤ f.opcode.toNat := by
  simp only [wellFormed_iff, CmdFields.opcodeDefined, decide_eq_true_eq, ← BitVec.toNat_inj,
    BitVec.ofNat_eq_ofNat, BitVec.toNat_ofNat]
  omega

/-! ### The fields as numbers (R48) -/

theorem fieldsOf_opcode_toNat (w : Word) : (fieldsOf w).opcode.toNat = w.toNat % 256 := by
  simp [fieldsOf]

theorem fieldsOf_data_toNat (w : Word) : (fieldsOf w).data.toNat = w.toNat / 256 % 256 := by
  simp [fieldsOf, Nat.shiftRight_eq_div_pow]

theorem fieldsOf_rsvd_toNat (w : Word) : (fieldsOf w).rsvd.toNat = w.toNat / 65536 := by
  have hlt : w.toNat / 65536 < 65536 := by have := w.isLt; omega
  simp [fieldsOf, Nat.shiftRight_eq_div_pow, Nat.mod_eq_of_lt hlt]

/-- Settles O3: a word is ILLEGAL when its fields fail the checks, and its fields are its quotients. -/
theorem illegalWordsCharacterised : Obligations.IllegalWordsCharacterised := fun w => by
  rw [decode, decodeFields_instr?_eq_none_iff, not_wellFormed_iff, fieldsOf_rsvd_toNat,
    fieldsOf_data_toNat, fieldsOf_opcode_toNat]

end Sys2Proof
end

section
/-! PROOFS. The streamer: the length field (O17) and the padding FINALIZE writes (O12);
spec/40_streamer.md. -/

namespace Sys2Proof.Machine

/-! ### The length field (R64) -/

/-- Multiplying by 8 drops the top three bits and appends three zeros (R64). -/
theorem lengthField_eq_append (c : Dword) : lengthField c = c.extractLsb' 0 61 ++ (0 : BitVec 3) := by
  apply BitVec.eq_of_toNat_eq
  have happend : (c.extractLsb' 0 61 ++ (0 : BitVec 3)).toNat = c.toNat % 2 ^ 61 * 2 ^ 3 := by
    refine (BitVec.toNat_append (c.extractLsb' 0 61) (0 : BitVec 3)).trans ?_
    simp [Nat.shiftLeft_eq]
  rw [happend, lengthField_toNat]
  omega

/-- Counting a length modulo 2^64 loses nothing of its length field (R64). -/
theorem lengthField_ofNat_toNat (n : Nat) :
    (lengthField (BitVec.ofNat 64 n)).toNat = 8 * n % 2 ^ 64 := by
  rw [lengthField_toNat, BitVec.toNat_ofNat, Nat.mul_mod_mod]

theorem be64Bytes_getElem? (v : Dword) (j : Fin 8) :
    (be64Bytes v)[j.val]? = some (v.extractLsb' (56 - 8 * j.val) 8) :=
  match j with
  | 0 | 1 | 2 | 3 | 4 | 5 | 6 | 7 => rfl

/-- Settles O17: the product's two forms, the count modulo 2^64, and the eight bytes. -/
theorem lengthFieldValue : Obligations.LengthFieldValue :=
  ⟨fun c => ⟨lengthField_toNat c, lengthField_eq_append c⟩, lengthField_ofNat_toNat,
    be64Bytes_getElem?⟩

/-! ### FINALIZE (R63, R65 to R67) -/

/-- With READY = 1 in STREAMING and room at BUF[FILL], FINALIZE is accepted (R63). -/
theorem exec_finalize_of_streaming {s : State} (hj : s.job = .idle) (hp : s.phase = .streaming)
    (hf : s.fill.toNat < 64) : exec .finalize s = .next (padded s) :=
  calc exec .finalize s
      = if s.phase = .streaming then padMessage s else .next (raiseError .sequenceError s) :=
        whenReady_of_idle hj _
    _ = padMessage s := if_pos hp
    _ = .next (padded s) := padMessage_next.mpr ⟨hf, rfl⟩

/-- Byte i of BUF in a block's length field is the byte of L that weighs 2^(8(63 - i)) (R64, R65). -/
theorem be64Bytes_lengthField_getD (c : Dword) {i : Nat} (h56 : 56 ≤ i) (hi : i < 64) :
    (be64Bytes (lengthField c)).getD (i - 56) 0 =
      BitVec.ofNat 8 (8 * c.toNat % 2 ^ 64 / 2 ^ (8 * (63 - i))) := by
  rw [be64Bytes_getD _ (by omega), lengthField_toNat, show 7 - (i - 56) = 63 - i by omega]

/-- BUF after FINALIZE, offset by offset (R65 to R67). -/
theorem padded_buf_getElem {s : State} (hf : s.fill.toNat < 64) (i : Nat) (hi : i < 64) :
    (padded s).buf[i] =
      if i < s.fill.toNat then s.buf[i]
      else if i = s.fill.toNat then 0x80
      else if s.fill.toNat ≤ 55 ∧ 56 ≤ i then
        BitVec.ofNat 8 (8 * s.byteCount.toNat % 2 ^ 64 / 2 ^ (8 * (63 - i)))
      else 0x00 := by
  rw [padded, padFinal_getElem hf]
  by_cases hlen : s.fill.toNat ≤ 55 ∧ 56 ≤ i
  · rw [if_pos hlen, if_pos hlen, be64Bytes_lengthField_getD _ hlen.2 hi]
  · rw [if_neg hlen, if_neg hlen]

/-- Settles O12: FINALIZE is accepted, its padding goes offset by offset, and the state it makes has the
other fields of R63. -/
theorem finalizeWritesPadding : Obligations.FinalizeWritesPadding := fun s hj hp hf =>
  ⟨padded s, exec_finalize_of_streaming hj hp hf, padded_buf_getElem hf,
    rfl, rfl, rfl, hp, rfl, rfl, rfl, rfl⟩

end Sys2Proof.Machine
end

section
/-! PROOFS. The round function and constant (O20), the round (O21), the 80 rounds in order (O22) and the
accumulation (O27); spec/42_compression.md. -/

namespace Sys2Proof.Machine

/-! ### f and k range by range (R74, R75) -/

theorem roundF_of_le_19 {t : Nat} (h : t ≤ 19) (b c d : Word) :
    roundF t b c d = ((b &&& c) ||| (~~~b &&& d)) :=
  if_pos h

theorem roundF_of_20_to_39 {t : Nat} (hlo : 20 ≤ t) (hhi : t ≤ 39) (b c d : Word) :
    roundF t b c d = b ^^^ c ^^^ d := by
  rw [roundF, if_neg (by omega), if_pos hhi]

theorem roundF_of_40_to_59 {t : Nat} (hlo : 40 ≤ t) (hhi : t ≤ 59) (b c d : Word) :
    roundF t b c d = ((b &&& c) ||| (b &&& d) ||| (c &&& d)) := by
  rw [roundF, if_neg (by omega), if_neg (by omega), if_pos hhi]

theorem roundF_of_60_le {t : Nat} (h : 60 ≤ t) (b c d : Word) : roundF t b c d = b ^^^ c ^^^ d := by
  rw [roundF, if_neg (by omega), if_neg (by omega), if_neg (by omega)]

theorem roundK_of_le_19 {t : Nat} (h : t ≤ 19) : roundK t = 0x5A827999 :=
  if_pos h

theorem roundK_of_20_to_39 {t : Nat} (hlo : 20 ≤ t) (hhi : t ≤ 39) : roundK t = 0x6ED9EBA1 := by
  rw [roundK, if_neg (by omega), if_pos hhi]

theorem roundK_of_40_to_59 {t : Nat} (hlo : 40 ≤ t) (hhi : t ≤ 59) : roundK t = 0x8F1BBCDC := by
  rw [roundK, if_neg (by omega), if_neg (by omega), if_pos hhi]

theorem roundK_of_60_le {t : Nat} (h : 60 ≤ t) : roundK t = 0xCA62C1D6 := by
  rw [roundK, if_neg (by omega), if_neg (by omega), if_neg (by omega)]

/-- Settles O20: f and k in each of the four ranges of t. -/
theorem roundFunctionAndConstant : Obligations.RoundFunctionAndConstant := fun _ b c d =>
  ⟨fun h => ⟨roundF_of_le_19 h b c d, roundK_of_le_19 h⟩,
    fun hlo hhi => ⟨roundF_of_20_to_39 hlo hhi b c d, roundK_of_20_to_39 hlo hhi⟩,
    fun hlo hhi => ⟨roundF_of_40_to_59 hlo hhi b c d, roundK_of_40_to_59 hlo hhi⟩,
    fun hlo _ => ⟨roundF_of_60_le hlo b c d, roundK_of_60_le hlo⟩⟩

/-! ### ROUND (R76) -/

/-- Rotating a word left by n is rotating it right by what is left of the 32 bits (R8). -/
theorem rotateLeft_eq_rotateRight (x : Word) {n : Nat} (h0 : 0 < n) (h : n < 32) :
    x.rotateLeft n = x.rotateRight (32 - n) := by
  rw [BitVec.rotateLeft_def, BitVec.rotateRight_def, Nat.mod_eq_of_lt h,
    Nat.mod_eq_of_lt (by omega : 32 - n < 32), Nat.sub_sub_self (Nat.le_of_lt h), BitVec.or_comm]

/-- The new a is one sum modulo 2^32: the reductions between the four additions do not show (R76). -/
theorem roundStep_w0_toNat (t : Nat) (r : Words5) (w : Word) :
    (roundStep t r w).w0.toNat =
      ((r.w0.rotateLeft 5).toNat + (roundF t r.w1 r.w2 r.w3).toNat + r.w4.toNat + w.toNat +
        (roundK t).toNat) % 2 ^ 32 := by
  simp only [roundStep, rotl_eq_rotateLeft _ (by decide : 5 < 32), BitVec.toNat_add, Nat.mod_add_mod]

theorem roundStep_w2 (t : Nat) (r : Words5) (w : Word) :
    (roundStep t r w).w2 = r.w1.rotateLeft 30 :=
  rotl_eq_rotateLeft r.w1 (by decide)

/-- Settles O21: the sum, the rotated b, and the three registers that only move. -/
theorem roundResult : Obligations.RoundResult := fun t a b c d e w _ =>
  ⟨roundStep_w0_toNat t ⟨a, b, c, d, e⟩ w, rfl, roundStep_w2 t ⟨a, b, c, d, e⟩ w,
    rotateLeft_eq_rotateRight b (by decide) (by decide), rfl, rfl⟩

/-! ### COMPRESS (R77) -/

/-- The rounds from t on fold ROUND over the words, each paired with its index counted from t. -/
theorem roundsFrom_eq_foldl (t : Nat) (r : Words5) (ws : List Word) :
    roundsFrom t r ws = (ws.zipIdx t).foldl (fun r p => roundStep p.2 r p.1) r := by
  induction ws generalizing t r with
  | nil => rfl
  | cons w ws ih => rw [roundsFrom, ih, List.zipIdx_cons, List.foldl_cons]

/-- Settles O22: COMPRESS is the rounds from 0 on. -/
theorem compressIsEightyRounds : Obligations.CompressIsEightyRounds :=
  fun h w _ => roundsFrom_eq_foldl 0 h w

/-! ### ACCUMULATE (R78) -/

theorem wordAt_accumulate (h out : Words5) (i : Fin 5) :
    wordAt (accumulate h out) i = wordAt h i + wordAt out i :=
  match i with
  | 0 | 1 | 2 | 3 | 4 => rfl

theorem wordAt_accumulate_toNat (h out : Words5) (i : Fin 5) :
    (wordAt (accumulate h out) i).toNat = ((wordAt h i).toNat + (wordAt out i).toNat) % 2 ^ 32 := by
  rw [wordAt_accumulate, BitVec.toNat_add]

/-- Settles O27: the words of any accumulation, of which the block transform is one with COMPRESS's H. -/
theorem accumulateAddsWords : Obligations.AccumulateAddsWords :=
  ⟨wordAt_accumulate_toNat, fun h b i _ => by rw [blockTransform_eq, wordAt_accumulate_toNat]⟩

end Sys2Proof.Machine
end

section
/-! PROOFS. The orchestrator: NOP (O9) and the ENGINE step under each JOB (O24 to O26);
spec/43_orchestrator.md. -/

namespace Sys2Proof.Machine

/-! ### NOP (R83) -/

/-- Settles O9: with READY = 1, NOP is accepted, and what it answers is the state itself. -/
theorem nopWritesNothing : Obligations.NopWritesNothing := fun _ hj => whenReady_of_idle hj _

/-! ### BLOCKSTEP (R79) -/

/-- BLOCKSTEP writes H alone, and H is COMPRESS's output added to the H it started from (R78, R79). -/
theorem blockStep_eq (s : State) :
    blockStep s = { s with h := accumulate s.h (compress s.h (schedule s.buf.toList)) } := by
  rw [blockStep, blockTransform_eq, readBlock]

/-! ### The three follow-ups (R87 to R90) -/

/-- Settles O24: BLOCKSTEP writes H, and the DATA follow-up FILL and JOB. -/
theorem engineDataStep : Obligations.EngineDataStep := fun s hj =>
  calc engineStep s
      = .next (dataFollowup (blockStep s)) := engineStep_next.mpr (.data hj)
    _ = _ := by rw [blockStep_eq, dataFollowup]

/-- BUF after the PAD_MORE follow-up, offset by offset: zeros, then the length field (R67, R88). -/
theorem padMoreFollowup_buf_getElem (s : State) (i : Nat) (hi : i < 64) :
    (padMoreFollowup s).buf[i] =
      if i < 56 then 0x00
      else BitVec.ofNat 8 (8 * s.byteCount.toNat % 2 ^ 64 / 2 ^ (8 * (63 - i))) := by
  rw [padMoreFollowup, padSecond_getElem]
  split
  next => rfl
  next h => exact be64Bytes_lengthField_getD _ (Nat.le_of_not_lt h) hi

/-- Settles O25: BLOCKSTEP writes H and keeps BYTECOUNT, from which the PAD_MORE follow-up builds BUF. -/
theorem enginePadMoreStep : Obligations.EnginePadMoreStep := fun s hj =>
  ⟨padMoreFollowup (blockStep s), engineStep_next.mpr (.padMore hj),
    blockTransform_eq s.h s.buf.toList, padMoreFollowup_buf_getElem (blockStep s),
    rfl, rfl, rfl, rfl, rfl, rfl, rfl⟩

/-- Settles O26: SERIALIZE copies the H that BLOCKSTEP wrote, and the follow-up ends the computation. -/
theorem enginePadLastStep : Obligations.EnginePadLastStep := fun s hj =>
  calc engineStep s
      = .next (padLastFollowup (blockStep s)) := engineStep_next.mpr (.padLast hj)
    _ = _ := by rw [blockStep_eq, padLastFollowup, serialize]

end Sys2Proof.Machine
end

section
/-! PROOFS. The error event (O28), the commands out of sequence (O14) and the ILLEGAL word (O29);
spec/60_exceptions.md. -/

namespace Sys2Proof.Machine

/-! ### The error event (R96) -/

/-- Outside STREAMING there is no computation to end, and the event can write CAUSE alone. -/
theorem raiseError_of_ne_streaming {s : State} (h : s.phase ≠ .streaming) (c : Cause) :
    raiseError c s = { s with cause := if s.cause = .none then c else s.cause } :=
  calc raiseError c s
      = { s with
          cause := if s.cause = .none then c else s.cause
          phase := if s.phase = .streaming then .aborted else s.phase } := rfl
    _ = _ := by rw [if_neg h]

/-- Outside STREAMING, with an error recorded, the event changes nothing (R20). -/
theorem raiseError_eq_self {s : State} (hp : s.phase ≠ .streaming) (hc : s.cause ≠ .none) (c : Cause) :
    raiseError c s = s := by
  rw [raiseError_of_ne_streaming hp, if_neg hc]

/-- Settles O28: the event's effect field by field, and ABORTED as a PHASE other than STREAMING. -/
theorem errorEventWritesCauseAndPhase : Obligations.ErrorEventWritesCauseAndPhase := fun c s =>
  ⟨raiseError_cause c s, raiseError_phase c s, raiseError_h c s, raiseError_buf c s,
    raiseError_fill c s, raiseError_byteCount c s, raiseError_job c s, raiseError_digest c s,
    raiseError_host c s, fun hp hc => raiseError_eq_self (by simp [hp]) hc c⟩

/-! ### Commands out of sequence (R82, R100) -/

/-- With READY = 1, each command that needs STREAMING raises SEQUENCE_ERROR in every other PHASE. -/
theorem exec_of_ne_streaming {i : Instr} {s : State} (hi : i = .finalize ∨ i = .abort ∨ ∃ b, i = .update b)
    (hj : s.job = .idle) (hp : s.phase ≠ .streaming) :
    exec i s = .next (raiseError .sequenceError s) := by
  rcases hi with rfl | rfl | ⟨b, rfl⟩
  · exact (whenReady_of_idle hj _).trans (if_neg hp)
  · exact (whenReady_of_idle hj _).trans (congrArg _ (if_neg hp))
  · exact (whenReady_of_idle hj _).trans (if_neg hp)

/-- Settles O14: outside STREAMING SEQUENCE_ERROR writes CAUSE alone; NOP answers the state itself, and
the state INIT makes has CAUSE = NONE. -/
theorem sequenceErrorOutsideStreaming : Obligations.SequenceErrorOutsideStreaming :=
  ⟨fun i s hi hj hp =>
      calc exec i s
          = .next (raiseError .sequenceError s) := exec_of_ne_streaming hi hj hp
        _ = _ := by rw [raiseError_of_ne_streaming hp],
    nopWritesNothing,
    fun s hj => ⟨initialised s, exec_init_of_idle hj, rfl⟩⟩

/-! ### ILLEGAL words (R52, R99) -/

/-- A word that decodes to no command has the meaning of an ILLEGAL word (R82). -/
theorem acceptWord_of_instr?_eq_none {w : Word} (h : (decode w).instr? = none) (s : State) :
    acceptWord w s = execIllegal s := by
  unfold acceptWord
  cases hd : decode w with
  | legal i => exact absurd hd ((Decoded.instr?_eq_none_iff _).mp h i)
  | illegal why => rfl

/-- Settles O29: with READY = 1 an ILLEGAL word is the error event ILLEGAL_COMMAND and no more. -/
theorem illegalWordRaisesIllegalCommand : Obligations.IllegalWordRaisesIllegalCommand := fun s w hj hw =>
  calc acceptWord w s
      = execIllegal s := acceptWord_of_instr?_eq_none hw s
    _ = .next (raiseError .illegalCommand s) := execIllegal_of_idle hj

end Sys2Proof.Machine
end

section
/-! PROOFS. Decode and encode agree (O2), the written words (O1) and the words that assembler lines emit
(O52); spec/30_encoding.md. -/

namespace Sys2Proof

/-! ### Decode and encode (R48 to R52) -/

/-- A word and its three fields say the same. -/
theorem fieldsOf_eq_iff (w : Word) (f : CmdFields) : fieldsOf w = f ↔ w = wordOf f :=
  ⟨fun h => by rw [← h, wordOf_fieldsOf], fun h => by rw [h, fieldsOf_wordOf]⟩

theorem decode_eq_legal_iff (w : Word) (i : Instr) : decode w = .legal i ↔ w = encode i :=
  (decodeFields_eq_legal_iff (fieldsOf w) i).trans (fieldsOf_eq_iff w i.fields)

@[simp] theorem decode_encode (i : Instr) : decode (encode i) = .legal i :=
  (decode_eq_legal_iff _ i).mpr rfl

/-- Settles O2: the decoder accepts each command's fields and no others, and a word is its fields. -/
theorem decodeIffEncode : Obligations.DecodeIffEncode := decode_eq_legal_iff

/-- Settles O1: the legal words are their commands' words, and each ILLEGAL word fails the check named. -/
theorem writtenWordsDecode : Obligations.WrittenWordsDecode :=
  ⟨decode_encode .nop, decode_encode .init, decode_encode (.update 0x00), decode_encode (.update 0x61),
    decode_encode (.update 0xFF), decode_encode .finalize, decode_encode .abort,
    rfl, rfl, rfl, rfl, rfl, rfl, rfl, rfl⟩

/-! ### Assembler text (R55 to R58) -/

/-- UPDATE's word is `(v << 8) | 0x02` (R55). -/
theorem encode_update_ofNat {v : Nat} (hv : v < 256) :
    encode (.update (BitVec.ofNat 8 v)) = BitVec.ofNat 32 (v * 256 + 2) := by
  have hfields : fieldsOf (BitVec.ofNat 32 (v * 256 + 2)) = (Instr.update (BitVec.ofNat 8 v)).fields := by
    simp only [fieldsOf, Instr.fields, CmdFields.mk.injEq, ← BitVec.toNat_inj, BitVec.ofNat_eq_ofNat,
      BitVec.toNat_ofNat, BitVec.extractLsb'_toNat, Nat.shiftRight_eq_div_pow]
    omega
  exact ((fieldsOf_eq_iff _ _).mp hfields).symm

namespace Machine

theorem assemble_of_wellFormed {l : SourceLine} (h : l.wellFormed = true) :
    assemble l = some (l.expand.map encode) := if_pos h

theorem assemble_of_not_wellFormed {l : SourceLine} (h : l.wellFormed = false) : assemble l = none :=
  if_neg (by simp [h])

/-- The words of UPDATES are one UPDATE word for each byte (R56). -/
theorem updatesOf_words {bs : List Nat} (h : ∀ b ∈ bs, b < 256) :
    (updatesOf (bs.map (BitVec.ofNat 8))).map encode = bs.map fun v => BitVec.ofNat 32 (v * 256 + 2) := by
  simp only [updatesOf, List.map_map]
  exact List.map_congr_left fun v hv => encode_update_ofNat (h v hv)

theorem assemble_updates {bs : List Nat} (h : ∀ b ∈ bs, b < 256) :
    assemble (.updates bs) = some (bs.map fun v => BitVec.ofNat 32 (v * 256 + 2)) := by
  rw [assemble_of_wellFormed (by simpa [SourceLine.wellFormed] using h), SourceLine.expand,
    updatesOf_words h]

theorem assemble_digest {bs : List Nat} (h : ∀ b ∈ bs, b < 256) :
    assemble (.digest bs) =
      some ([0x00000001] ++ (bs.map fun v => BitVec.ofNat 32 (v * 256 + 2)) ++ [0x00000003]) := by
  rw [assemble_of_wellFormed (by simpa [SourceLine.wellFormed] using h), SourceLine.expand, digestOf,
    List.map_cons, List.map_append, updatesOf_words h]
  rfl

/-- One immediate out of range makes a line of bytes ill-formed (log 14). -/
theorem all_lt_eq_false {bs : List Nat} (h : ∃ b ∈ bs, 256 ≤ b) : bs.all (· < 256) = false := by
  simpa using h

/-- Settles O52: the five fixed lines, UPDATE on both sides of 256, the lines of bytes, and grouping. -/
theorem assemblerWords : Obligations.AssemblerWords := by
  refine ⟨rfl, rfl, rfl, rfl, rfl, fun v hv => ?_, fun v hv => ?_,
    fun bs hbs => ⟨assemble_updates hbs, assemble_digest hbs⟩,
    fun bs hbs => ⟨assemble_of_not_wellFormed (all_lt_eq_false hbs),
      assemble_of_not_wellFormed (all_lt_eq_false hbs)⟩,
    fun a b => List.map_append⟩
  · rw [assemble_of_wellFormed (by simpa [SourceLine.wellFormed] using hv), SourceLine.expand,
      List.map_singleton, encode_update_ofNat hv]
  · exact assemble_of_not_wellFormed (by simpa [SourceLine.wellFormed] using hv)

end Machine
end Sys2Proof
end

section
/-! PROOFS. Which of RESET, the HOST's word and the ENGINE moves in a turn (O7, O16, O31 to O35);
spec/70_reset_and_hazards.md. Later sections run a turn by these rules. -/

namespace Sys2Proof.Machine

/-! ### One rule for each drive of the HOST (R103, R112, R118) -/

theorem step_of_host_nil {s : State} (h : s.host = []) : step s = engineStep s := by
  simp only [step, turn, h]

theorem step_of_reset {s : State} {d : HostDrive} {rest : List HostDrive} (h : s.host = d :: rest)
    (hr : d.reset = true) : step s = .next (applyReset { s with host := rest }) := by
  simp only [step, turn, h, hr, if_true]

theorem step_of_no_reset {s : State} {d : HostDrive} {rest : List HostDrive} (h : s.host = d :: rest)
    (hr : d.reset = false) : step s = commandTurn d.cmd rest s := by
  simp [step, turn, h, hr]

theorem step_of_word_of_idle {s : State} {w : Word} {rest : List HostDrive}
    (h : s.host = { cmd := some w, reset := false } :: rest) (hj : s.job = .idle) :
    step s = acceptWord w { s with host := rest } :=
  (step_of_no_reset h rfl).trans (if_pos ((ready_eq_true s).mpr hj))

theorem step_of_word_of_busy {s : State} {w : Word} {rest : List HostDrive}
    (h : s.host = { cmd := some w, reset := false } :: rest) (hj : s.job ≠ .idle) :
    step s = engineStep s :=
  (step_of_no_reset h rfl).trans (if_neg (mt (ready_eq_true s).mp hj))

theorem engineStep_of_idle {s : State} (hj : s.job = .idle) : engineStep s = .next s :=
  engineStep_next.mpr (.wait hj)

/-- Where the HOST presents no word the turn is the ENGINE's; with READY = 1 that is a wait (R112). -/
theorem step_of_no_word {s : State} {rest : List HostDrive}
    (h : s.host = { cmd := none, reset := false } :: rest) :
    step s = engineStep { s with host := rest } := by
  rw [step_of_no_reset h rfl]
  by_cases hj : s.job = .idle
  · exact (if_pos ((ready_eq_true s).mpr hj)).trans
      (engineStep_of_idle (s := { s with host := rest }) hj).symm
  · exact if_neg (mt (ready_eq_true s).mp hj)

theorem acceptWord_of_legal {w : Word} {i : Instr} (h : decode w = .legal i) (s : State) :
    acceptWord w s = exec i s := by
  simp only [acceptWord, h]

/-- The ENGINE neither reads nor writes the HOST's drive (R42). -/
theorem engineStep_with_host {s t : State} (h : engineStep s = .next t) (host : List HostDrive) :
    engineStep { s with host := host } = .next { t with host := host } := by
  rw [engineStep_next] at h ⊢
  cases h with
  | wait hj => exact .wait hj
  | data hj => exact .data (s := { s with host := host }) hj
  | padMore hj => exact .padMore (s := { s with host := host }) hj
  | padLast hj => exact .padLast (s := { s with host := host }) hj

theorem engineStep_host {s t : State} (h : engineStep s = .next t) : t.host = s.host := by
  cases engineStep_next.mp h <;> rfl

/-! ### The statements about one turn -/

/-- Settles O7: the turn is RESET's, whatever JOB and the word are. -/
theorem resetPreemptsEverything : Obligations.ResetPreemptsEverything :=
  fun _ _ _ hh => step_of_reset hh rfl

/-- With READY = 0 every command is held (R118). -/
theorem exec_of_busy {s : State} (hj : s.job ≠ .idle) (i : Instr) : exec i s = .next s := by
  cases i <;> exact whenReady_of_busy hj _

/-- Settles O16: each command is held. -/
theorem commandsHeldWhileBusy : Obligations.CommandsHeldWhileBusy := fun i _ hj => exec_of_busy hj i

/-- Settles O31: the word on CMD is accepted, and decoding comes first. -/
theorem stepRunsDecodedCommand : Obligations.StepRunsDecodedCommand := fun s w rest hh hj => by
  rw [step_of_word_of_idle hh hj]
  exact ⟨fun i hi => acceptWord_of_legal hi _, fun hi =>
    (acceptWord_of_instr?_eq_none hi _).trans (execIllegal_of_idle hj)⟩

/-- A table word that decodes to a command is that command's word. -/
theorem decode_of_decodeTableWord {w : Nat} {i : Instr} (h : decodeTableWord 32 w = some i) :
    decode (BitVec.ofNat 32 (w % 2 ^ 32)) = .legal i := by
  unfold decodeTableWord at h
  cases hd : decode (BitVec.ofNat 32 (w % 2 ^ 32)) with
  | legal j => rw [hd] at h; exact congrArg _ (Option.some.inj h)
  | illegal why => rw [hd] at h; cases h

/-- Settles O32: the placed word is the one accepted, and the HOST then drives what it drove before. -/
theorem placedWordRuns : Obligations.PlacedWordRuns := fun s w i hj hi =>
  calc step (s.withFetchWord 32 w)
      = acceptWord (BitVec.ofNat 32 (w % 2 ^ 32)) s :=
        step_of_word_of_idle (s := s.withFetchWord 32 w) rfl hj
    _ = exec i s := acceptWord_of_legal (decode_of_decodeTableWord hi) s

/-- Settles O33: in each of the three shapes of the drive the turn is the ENGINE's, which keeps the drive. -/
theorem busyTurnIsTheEnginesAlone : Obligations.BusyTurnIsTheEnginesAlone := fun s rest hj => by
  refine ⟨fun w hh => ?_, fun hh => ?_, fun hh => ?_⟩
  · rw [step_of_word_of_busy hh hj]
    exact ⟨rfl, fun t ht => ⟨engineStep_host ht, fun w' =>
      (step_of_word_of_busy (s := { s with host := { cmd := some w', reset := false } :: rest }) rfl hj).trans
        (engineStep_with_host ht _)⟩⟩
  · rw [step_of_no_word hh]
    exact ⟨rfl, fun t ht => ⟨engineStep_host ht, engineStep_with_host ht s.host⟩⟩
  · rw [step_of_host_nil hh]
    exact ⟨rfl, fun t ht => (engineStep_host ht).trans hh⟩

/-- Settles O34: with READY = 1 the ENGINE's turn is a wait. -/
theorem readyCoreWaits : Obligations.ReadyCoreWaits := fun _ _ hj =>
  ⟨fun hh => (step_of_host_nil hh).trans (engineStep_of_idle hj),
    fun hh => (step_of_no_word hh).trans (engineStep_of_idle hj)⟩

/-! ### Several cores (R110) -/

/-- Core k of a system moves exactly by its own step. -/
theorem stepInstance_next {k : Nat} {sys sys' : System} {s : State} (hs : sys[k]? = some s)
    (h : System.stepInstance k sys = .next sys') : ∃ t, step s = .next t ∧ sys' = sys.set k t := by
  simp only [System.stepInstance, hs] at h
  cases hstep : step s with
  | next t => rw [hstep] at h; cases h; exact ⟨t, rfl, rfl⟩
  | fault f => rw [hstep] at h; cases h
  | refused r => rw [hstep] at h; cases h

/-- Settles O35: where core k exists its own place alone is written, and where it does not, none is. -/
theorem instancesShareNothing : Obligations.InstancesShareNothing := fun sys sys' k h => by
  cases hs : sys[k]? with
  | none =>
    simp only [System.stepInstance, hs] at h
    cases h
    exact ⟨rfl, fun _ _ => rfl, fun s hs' => by cases hs'⟩
  | some s =>
    obtain ⟨t, ht, rfl⟩ := stepInstance_next hs h
    have hk : k < sys.length := (List.getElem?_eq_some_iff.mp hs).1
    refine ⟨List.length_set, fun j hj => List.getElem?_set_ne hj.symm, fun s' hs' => ?_⟩
    cases hs'
    exact ⟨t, ht, List.getElem?_set_self hk⟩

end Sys2Proof.Machine
end

section
/-! PROOFS. The register invariant: it holds at reset, every step keeps it, and every run from it is safe
(O36, O37, O39); spec/10_state.md. -/

namespace Sys2Proof.Machine

/-! ### FILL and BYTECOUNT after UPDATE (R62) -/

theorem appended_fill_toNat {s : State} (hf : s.fill.toNat < 64) (b : Byte) :
    (appended b s).fill.toNat = s.fill.toNat + 1 := by
  change (s.fill + 1).toNat = s.fill.toNat + 1
  rw [BitVec.toNat_add, show (1 : BitVec 7).toNat = 1 from rfl]
  omega

theorem appended_byteCount_toNat (b : Byte) (s : State) :
    (appended b s).byteCount.toNat = (s.byteCount.toNat + 1) % 2 ^ 64 :=
  BitVec.toNat_add s.byteCount 1

/-- The byte at FILL = 63 fills the block, and no other does. -/
theorem appended_job {s : State} (hj : s.job = .idle) (hf : s.fill.toNat < 64) (b : Byte) :
    (appended b s).job = if s.fill.toNat = 63 then .data else .idle := by
  have hfull : (appended b s).fill = 64 ↔ s.fill.toNat = 63 := by
    rw [← BitVec.toNat_inj, appended_fill_toNat hf]
    exact Nat.succ_inj
  change (if (appended b s).fill = 64 then .data else s.job) = _
  simp only [hfull, hj]

/-! ### The registers of the states that commands make -/

@[simp] theorem appended_h (b : Byte) (s : State) : (appended b s).h = s.h := rfl
@[simp] theorem appended_phase (b : Byte) (s : State) : (appended b s).phase = s.phase := rfl
@[simp] theorem appended_cause (b : Byte) (s : State) : (appended b s).cause = s.cause := rfl
@[simp] theorem appended_digest (b : Byte) (s : State) : (appended b s).digest = s.digest := rfl
@[simp] theorem appended_host (b : Byte) (s : State) : (appended b s).host = s.host := rfl
@[simp] theorem padded_h (s : State) : (padded s).h = s.h := rfl
@[simp] theorem padded_phase (s : State) : (padded s).phase = s.phase := rfl
@[simp] theorem padded_job (s : State) :
    (padded s).job = if s.fill.toNat ≤ 55 then .padLast else .padMore := rfl
@[simp] theorem padded_cause (s : State) : (padded s).cause = s.cause := rfl
@[simp] theorem padded_fill (s : State) : (padded s).fill = 0 := rfl
@[simp] theorem padded_byteCount (s : State) : (padded s).byteCount = s.byteCount := rfl
@[simp] theorem padded_digest (s : State) : (padded s).digest = s.digest := rfl
@[simp] theorem padded_host (s : State) : (padded s).host = s.host := rfl

/-! ### The invariant by PHASE -/

/-- No DIGEST outside FINALIZED (R27). -/
theorem State.Inv.digest_eq_none {s : State} (h : s.Inv) (hp : s.phase ≠ .finalized) :
    s.digest = none := by
  rw [← Option.not_isSome_iff_eq_none, h.digest_finalized]
  exact hp

theorem State.Inv.job_idle {s : State} (h : s.Inv) (hp : s.phase ≠ .streaming) : s.job = .idle :=
  Decidable.not_not.mp (mt h.job_streaming hp)

/-- With READY = 1 in STREAMING, FILL is the place in the block (R22, R23). -/
theorem State.Inv.fill_of_streaming {s : State} (h : s.Inv) (hj : s.job = .idle)
    (hp : s.phase = .streaming) : s.fill.toNat < 64 ∧ s.byteCount.toNat % 64 = s.fill.toNat := by
  have hlt := h.fill_legal (by simp [hp])
  have hcount := h.count_fill hp
  rw [hj] at hlt hcount
  exact ⟨hlt, hcount⟩

theorem State.Inv.with_host {s : State} (h : s.Inv) (host : List HostDrive) :
    State.Inv { s with host := host } := { h with }

/-- In IDLE every value of H, BUF, FILL and BYTECOUNT is allowed (R33). -/
theorem inv_of_idle {s : State} (hp : s.phase = .idle) (hj : s.job = .idle) (hd : s.digest = none) :
    s.Inv := by
  constructor <;> simp [hp, hj, hd]

/-! ### Every command keeps it (R82) -/

theorem inv_initialised (s : State) : (initialised s).Inv := by
  constructor <;> simp [initialised]

/-- An error event moves STREAMING to ABORTED with a cause, and writes no other register (R96, R97). -/
theorem State.Inv.raiseError {s : State} (h : s.Inv) (hj : s.job = .idle) {c : Cause} (hc : c ≠ .none) :
    (raiseError c s).Inv := by
  by_cases hp : s.phase = .streaming
  · obtain ⟨hlt, -⟩ := h.fill_of_streaming hj hp
    have hcause := h.streaming_cause hp
    have hdigest := h.digest_eq_none (by simp [hp])
    constructor <;> simp [hp, hj, hc, hlt, hcause, hdigest]
  · exact
      { streaming_cause := by simp [hp]
        aborted_cause := fun ha => by
          have := h.aborted_cause (by simpa [hp] using ha)
          simp [this]
        job_streaming := by simp [hj]
        fill_legal := by simpa [hp, hj] using h.fill_legal
        count_fill := by simp [hp]
        digest_finalized := by simpa [hp] using h.digest_finalized
        finalized_digest := by simpa [hp] using h.finalized_digest }

theorem State.Inv.appended {s : State} (h : s.Inv) (hj : s.job = .idle) (hp : s.phase = .streaming)
    (b : Byte) : (appended b s).Inv := by
  obtain ⟨hlt, hcount⟩ := h.fill_of_streaming hj hp
  have hdigest := h.digest_eq_none (by simp [hp])
  have hfill := appended_fill_toNat hlt b
  have hjob := appended_job hj hlt b
  have hbytes := appended_byteCount_toNat b s
  by_cases h63 : s.fill.toNat = 63
  · rw [h63] at hfill hcount
    rw [if_pos h63] at hjob
    constructor <;> simp [hp, hjob, hfill, hbytes, h.streaming_cause hp, hdigest]
    omega
  · rw [if_neg h63] at hjob
    constructor <;> simp [hp, hjob, hfill, hbytes, h.streaming_cause hp, hdigest]
    all_goals omega

theorem State.Inv.padded {s : State} (h : s.Inv) (hj : s.job = .idle) (hp : s.phase = .streaming) :
    (padded s).Inv := by
  obtain ⟨hlt, hcount⟩ := h.fill_of_streaming hj hp
  have hdigest := h.digest_eq_none (by simp [hp])
  by_cases h55 : s.fill.toNat ≤ 55
  · constructor <;> simp [hp, h55, h.streaming_cause hp, hdigest]
  · constructor <;> simp [hp, h55, h.streaming_cause hp, hdigest]
    omega

theorem Accepted.inv {s t : State} {i : Instr} (h : Accepted s i t) (hj : s.job = .idle) (hs : s.Inv) :
    t.Inv := by
  cases h with
  | nop => exact hs
  | init => exact inv_initialised s
  | update b hp hlt => exact hs.appended hj hp b
  | finalize hp hlt => exact hs.padded hj hp
  | abort hp => exact hs.raiseError hj (by simp)
  | sequence i hp hn hi => exact hs.raiseError hj (by simp)

/-! ### The ENGINE and RESET keep it (R87 to R90, R113) -/

theorem Engine.inv {s t : State} (h : Engine s t) (hs : s.Inv) : t.Inv := by
  have busy : s.job ≠ .idle → s.phase = .streaming ∧ s.cause = .none ∧ s.digest = none := fun hj =>
    have hp := hs.job_streaming hj
    ⟨hp, hs.streaming_cause hp, hs.digest_eq_none (by simp [hp])⟩
  cases h with
  | wait hj => exact hs
  | data hj =>
    obtain ⟨hp, hc, hd⟩ := busy (by simp [hj])
    have hcount := hs.count_fill hp
    rw [hj] at hcount
    constructor <;> simp [hp, hc, hd, hcount]
  | padMore hj =>
    obtain ⟨hp, hc, hd⟩ := busy (by simp [hj])
    have hfill := hs.fill_legal (by simp [hp])
    rw [hj] at hfill
    constructor <;> simp [hp, hc, hd, hfill]
  | padLast hj =>
    obtain ⟨hp, hc, hd⟩ := busy (by simp [hj])
    have hfill := hs.fill_legal (by simp [hp])
    rw [hj] at hfill
    constructor <;> simp [hfill]

theorem inv_of_acceptWord {s t : State} {w : Word} (hj : s.job = .idle) (hs : s.Inv)
    (h : acceptWord w s = .next t) : t.Inv := by
  rcases acceptWord_next hj h with ⟨i, -, hi⟩ | ⟨-, rfl⟩
  · exact hi.inv hj hs
  · exact hs.raiseError hj (by simp)

theorem inv_of_step {s t : State} (hs : s.Inv) (h : step s = .next t) : t.Inv := by
  cases step_next h with
  | reset d rest hh hr => exact inv_of_idle rfl rfl rfl
  | accept w rest t hh hj ha =>
    exact inv_of_acceptWord (s := { s with host := rest }) hj (hs.with_host rest) ha
  | engine host' t hh he => exact he.inv (hs.with_host host')

/-! ### From the invariant no step stops (R22, R101) -/

/-- The commands that need STREAMING are those other than NOP and INIT (R82). -/
theorem needs_streaming {i : Instr} (hn : i ≠ .nop) (hi : i ≠ .init) :
    i = .finalize ∨ i = .abort ∨ ∃ b, i = .update b := by
  cases i with
  | nop => exact absurd rfl hn
  | init => exact absurd rfl hi
  | update b => exact .inr (.inr ⟨b, rfl⟩)
  | finalize => exact .inl rfl
  | abort => exact .inr (.inl rfl)

/-- With READY = 1 a command has each effect that `Accepted` lists for it. -/
theorem exec_of_accepted {s t : State} {i : Instr} (hj : s.job = .idle) (h : Accepted s i t) :
    exec i s = .next t := by
  cases h with
  | nop => exact nopWritesNothing s hj
  | init => exact exec_init_of_idle hj
  | update b hp hlt =>
    calc exec (.update b) s
        = if s.phase = .streaming then appendByte b s else .next (raiseError .sequenceError s) :=
          whenReady_of_idle hj _
      _ = appendByte b s := if_pos hp
      _ = .next (appended b s) := appendByte_next.mpr ⟨hlt, rfl⟩
  | finalize hp hlt => exact exec_finalize_of_streaming hj hp hlt
  | abort hp => exact (whenReady_of_idle hj _).trans (congrArg _ (if_pos hp))
  | sequence i hp hn hi => exact exec_of_ne_streaming (needs_streaming hn hi) hj hp

/-- With READY = 1, UPDATE and FINALIZE have their place BUF[FILL] (R62, R63). -/
theorem exists_accepted {s : State} (hs : s.Inv) (hj : s.job = .idle) (i : Instr) :
    ∃ t, Accepted s i t := by
  by_cases hp : s.phase = .streaming
  · obtain ⟨hlt, -⟩ := hs.fill_of_streaming hj hp
    cases i with
    | nop => exact ⟨_, .nop⟩
    | init => exact ⟨_, .init⟩
    | update b => exact ⟨_, .update b hp hlt⟩
    | finalize => exact ⟨_, .finalize hp hlt⟩
    | abort => exact ⟨_, .abort hp⟩
  · cases i with
    | nop => exact ⟨_, .nop⟩
    | init => exact ⟨_, .init⟩
    | update b => exact ⟨_, .sequence _ hp (by simp) (by simp)⟩
    | finalize => exact ⟨_, .sequence _ hp (by simp) (by simp)⟩
    | abort => exact ⟨_, .sequence _ hp (by simp) (by simp)⟩

theorem acceptWord_total {s : State} (hs : s.Inv) (hj : s.job = .idle) (w : Word) :
    ∃ t, acceptWord w s = .next t := by
  cases hd : decode w with
  | legal i =>
    rw [acceptWord_of_legal hd]
    obtain ⟨t, ht⟩ := exists_accepted hs hj i
    exact ⟨t, exec_of_accepted hj ht⟩
  | illegal why =>
    rw [acceptWord_of_instr?_eq_none (by rw [hd]; rfl), execIllegal_of_idle hj]
    exact ⟨_, rfl⟩

theorem step_total {s : State} (hs : s.Inv) : ∃ t, step s = .next t := by
  cases hh : s.host with
  | nil =>
    rw [step_of_host_nil hh]
    exact engineStep_total s
  | cons d rest =>
    obtain ⟨cmd, reset⟩ := d
    match reset, cmd with
    | true, _ => exact ⟨_, step_of_reset hh rfl⟩
    | false, none =>
      rw [step_of_no_word hh]
      exact engineStep_total _
    | false, some w =>
      by_cases hj : s.job = .idle
      · rw [step_of_word_of_idle hh hj]
        exact acceptWord_total (hs.with_host rest) hj w
      · rw [step_of_word_of_busy hh hj]
        exact engineStep_total s

/-- Settles O36: PHASE is IDLE, and no block waits. -/
theorem invAtReset : Obligations.InvAtReset :=
  ⟨inv_of_idle rfl rfl rfl, by constructor <;> simp⟩

/-- Settles O37: no step from the invariant stops, and commands, the ENGINE and RESET keep it. -/
theorem stepKeepsInv : Obligations.StepKeepsInv := fun _ hs =>
  have ⟨t, ht⟩ := step_total hs
  ⟨t, ht, inv_of_step hs ht⟩

/-- One step from the invariant, then the rest of the run. -/
theorem exists_runSteps (k : Nat) {s : State} (hs : s.Inv) : ∃ t, runSteps k s = .next t ∧ t.Inv := by
  induction k generalizing s with
  | zero => exact ⟨s, rfl, hs⟩
  | succ k ih =>
    obtain ⟨u, hu, hui⟩ := stepKeepsInv s hs
    rw [runSteps_succ, hu]
    exact ih hui

/-- Settles O39: along the run every state meets the invariant. -/
theorem invRunsAreSafe : Obligations.InvRunsAreSafe := fun _ hs k =>
  have ⟨t, ht, _⟩ := exists_runSteps k hs
  ⟨t, ht⟩

end Sys2Proof.Machine
end

section
/-! PROOFS. The STATUS word (O4) and the values after reset (O6); spec/10_state.md. -/

namespace Sys2Proof.Machine

/-! ### The fields of STATUS (R29) -/

/-- Bit i of STATUS, by the field that holds it. -/
theorem status_getLsbD (s : State) (i : Nat) :
    s.status.getLsbD i =
      if i < 2 then s.phase.code.getLsbD i
      else if i = 2 then s.busy
      else if i = 3 then s.dvalid
      else s.cause.code.getLsbD (i - 4) := by
  have hbits : s.status.getLsbD i =
      if i < 2 then s.phase.code.getLsbD i
      else if i - 2 < 1 then (BitVec.ofBool s.busy).getLsbD (i - 2)
      else if i - 2 - 1 < 1 then (BitVec.ofBool s.dvalid).getLsbD (i - 2 - 1)
      else if i - 2 - 1 - 1 < 3 then s.cause.code.getLsbD (i - 2 - 1 - 1)
      else (0 : BitVec 25).getLsbD (i - 2 - 1 - 1 - 3) := by
    simp only [State.status, BitVec.getLsbD_append]
  rw [hbits]
  by_cases h2 : i < 2
  · simp only [if_pos h2]
  · rw [if_neg h2, if_neg h2]
    by_cases hb : i = 2
    · simp [hb]
    · rw [if_neg (by omega), if_neg hb]
      by_cases hd : i = 3
      · simp [hd]
      · rw [if_neg (by omega), if_neg hd, show i - 2 - 1 - 1 = i - 4 by omega]
        by_cases hc : i - 4 < 3
        · rw [if_pos hc]
        · rw [if_neg hc, BitVec.getLsbD_of_ge s.cause.code (i - 4) (by omega)]
          simp

theorem status_phase (s : State) : s.status.extractLsb' 0 2 = s.phase.code := by
  ext i hi
  rw [BitVec.getElem_extractLsb', status_getLsbD, Nat.zero_add, if_pos hi,
    BitVec.getLsbD_eq_getElem hi]

theorem status_cause (s : State) : s.status.extractLsb' 4 3 = s.cause.code := by
  ext i hi
  rw [BitVec.getElem_extractLsb', status_getLsbD, if_neg (by omega), if_neg (by omega),
    if_neg (by omega), Nat.add_sub_cancel_left, BitVec.getLsbD_eq_getElem hi]

theorem status_reserved (s : State) : s.status.extractLsb' 7 25 = 0 := by
  ext i hi
  rw [BitVec.getElem_extractLsb', status_getLsbD, if_neg (by omega), if_neg (by omega),
    if_neg (by omega), BitVec.getLsbD_of_ge _ _ (by omega)]
  simp

/-- Settles O4: STATUS field by field, its codes those of R16 and R19. -/
theorem statusLayout : Obligations.StatusLayout := by
  refine ⟨fun s => ⟨?_, ?_, ?_, ?_, status_reserved s, ready_eq_true s, ?_, ?_⟩, rfl, rfl⟩
  · rw [status_phase]
    cases s.phase <;> rfl
  · rw [status_getLsbD]
    simp [State.busy, State.ready]
  · rw [status_getLsbD]
    simp [State.dvalid]
  · rw [status_cause]
    cases s.cause <;> rfl
  · simp [State.busy]
  · simp [State.pend]

/-- Settles O6: the reset state's fields, as it is written. -/
theorem resetStateValues : Obligations.ResetStateValues :=
  ⟨rfl, rfl, rfl, rfl, rfl, rfl, rfl, fun _ hi => Vector.getElem_replicate hi, rfl, rfl⟩

end Sys2Proof.Machine
end

section
/-! PROOFS. Commands after reset (O8), UPDATE (O11), ABORT (O13), and what each command leaves unchanged
(O15); spec/40_streamer.md and spec/43_orchestrator.md. -/

namespace Sys2Proof.Machine

/-! ### After reset (R114) -/

/-- Settles O8: NOP, INIT, and a sequence error outside STREAMING, each from the reset state. -/
theorem commandsAfterReset : Obligations.CommandsAfterReset :=
  ⟨nopWritesNothing State.reset rfl, ⟨_, exec_init_of_idle rfl, rfl, rfl⟩,
    fun _ hi => ⟨exec_of_ne_streaming hi rfl (by simp), rfl⟩⟩

/-! ### UPDATE (R62) -/

theorem appended_buf_getElem (b : Byte) (s : State) (i : Nat) (hi : i < 64) :
    (appended b s).buf[i] = if i = s.fill.toNat then b else s.buf[i] := by
  change (s.buf.setIfInBounds s.fill.toNat b)[i] = _
  rw [Vector.getElem_setIfInBounds hi]
  simp only [eq_comm (a := i)]

/-- Settles O11: UPDATE is accepted, and the state it makes has the byte at BUF[FILL] and the counts one
more. -/
theorem updateAppendsByte : Obligations.UpdateAppendsByte := fun b s hj hp hlt => by
  refine ⟨appended b s, exec_of_accepted hj (.update b hp hlt), appended_buf_getElem b s, ?_, ?_,
    appended_job hj hlt b, rfl, hp, rfl, rfl, rfl⟩
  · rw [BitVec.ofNat_add, BitVec.ofNat_toNat, BitVec.setWidth_eq]
    rfl
  · rw [BitVec.ofNat_add, BitVec.ofNat_toNat, BitVec.setWidth_eq]
    rfl

/-! ### ABORT (R85) -/

/-- Settles O13: ABORT is accepted, and its error event ends the computation. -/
theorem abortEndsComputation : Obligations.AbortEndsComputation := fun s hj hp =>
  calc exec .abort s
      = .next (raiseError .sourceReadError s) := exec_of_accepted hj (.abort hp)
    _ = .next { s with
          cause := if s.cause = .none then .sourceReadError else s.cause
          phase := if s.phase = .streaming then .aborted else s.phase } := rfl
    _ = _ := by rw [if_pos hp]

/-! ### Frames: what an accepted command keeps -/

section
variable {s t : State} {i : Instr}

theorem Accepted.h_eq (h : Accepted s i t) (hi : i ≠ .init) : t.h = s.h := by
  cases h with
  | init => exact absurd rfl hi
  | nop | update | finalize | abort | sequence => rfl

theorem Accepted.digest_eq (h : Accepted s i t) (hi : i ≠ .init) : t.digest = s.digest := by
  cases h with
  | init => exact absurd rfl hi
  | nop | update | finalize | abort | sequence => rfl

theorem Accepted.byteCount_eq (h : Accepted s i t) (hi : i = .nop ∨ i = .finalize ∨ i = .abort) :
    t.byteCount = s.byteCount := by
  cases h with
  | init | update => simp at hi
  | nop | finalize | abort | sequence => rfl

theorem Accepted.fill_job_eq (h : Accepted s i t) (hi : i = .nop ∨ i = .abort) :
    t.fill = s.fill ∧ t.job = s.job := by
  cases h with
  | init | update | finalize => simp at hi
  | nop | abort | sequence => exact ⟨rfl, rfl⟩

theorem Accepted.buf_eq (h : Accepted s i t) (hi : i = .nop ∨ i = .init ∨ i = .abort) :
    t.buf = s.buf := by
  cases h with
  | update | finalize => simp at hi
  | nop | init | abort | sequence => rfl

/-- The bytes of BUF before FILL's place are kept by every command. -/
theorem Accepted.buf_getElem_of_lt_fill (h : Accepted s i t) (k : Nat) (hk : k < 64)
    (hlt : k < s.fill.toNat) : t.buf[k] = s.buf[k] := by
  cases h with
  | update b hp hf => rw [appended_buf_getElem, if_neg (by omega)]
  | finalize hp hf => rw [padded_buf_getElem hf, if_pos hlt]
  | nop | init | abort | sequence => rfl

theorem Accepted.buf_getElem_of_ne_fill {b : Byte} (h : Accepted s (.update b) t) (k : Nat) (hk : k < 64)
    (hne : k ≠ s.fill.toNat) : t.buf[k] = s.buf[k] := by
  cases h with
  | update b hp hf => rw [appended_buf_getElem, if_neg hne]
  | sequence => rfl

/-- The first cause stays until INIT (R20, R105). -/
theorem Accepted.cause_eq (h : Accepted s i t) (hi : i ≠ .init) (hc : s.cause ≠ .none) :
    t.cause = s.cause := by
  cases h with
  | init => exact absurd rfl hi
  | nop | update | finalize => rfl
  | abort | sequence => exact if_neg hc

theorem Accepted.host_eq (h : Accepted s i t) : t.host = s.host := by
  cases h <;> rfl

end

/-- Settles O15: an accepted command keeps what its frame says, and a held one keeps the whole state. -/
theorem commandFrames : Obligations.CommandFrames := fun i s t h => by
  rcases exec_next h with ⟨-, ha⟩ | ⟨-, rfl⟩
  · exact ⟨fun hi => ⟨ha.h_eq hi, ha.digest_eq hi⟩, ha.byteCount_eq, ha.fill_job_eq, ha.buf_eq,
      ha.buf_getElem_of_lt_fill, fun b hb => (hb ▸ ha).buf_getElem_of_ne_fill, ha.cause_eq, ha.host_eq⟩
  · exact ⟨fun _ => ⟨rfl, rfl⟩, fun _ => rfl, fun _ => ⟨rfl, rfl⟩, fun _ => rfl, fun _ _ _ => rfl,
      fun _ _ _ _ _ => rfl, fun _ _ => rfl, rfl⟩

end Sys2Proof.Machine
end

section
/-! PROOFS. What a turn may change: CAUSE (O30), PHASE (O43), H and DIGEST (O44), the end of a computation
(O42), the ENGINE's progress (O45), and the two ends that last (O50, O51); spec/43_orchestrator.md,
spec/60_exceptions.md and spec/70_reset_and_hazards.md. -/

namespace Sys2Proof.Machine

/-! ### A turn is RESET, an accepted INIT, or goes on with the computation -/

/-- A turn in which neither RESET nor an accepted INIT moves: another command, an ILLEGAL word, or the
ENGINE. -/
inductive GoesOn (s : State) : State → Prop where
  | command (i : Instr) (rest : List HostDrive) (t : State) : i ≠ .init → s.job = .idle →
      Accepted { s with host := rest } i t → GoesOn s t
  | illegal (rest : List HostDrive) : s.job = .idle →
      GoesOn s (raiseError .illegalCommand { s with host := rest })
  | engine (host' : List HostDrive) (t : State) : Engine { s with host := host' } t → GoesOn s t

theorem step_cases {s t : State} (h : step s = .next t) :
    (∃ d rest, s.host = d :: rest ∧ d.reset = true ∧ t = applyReset { s with host := rest }) ∨
    (∃ rest, s.host = { cmd := some (encode .init), reset := false } :: rest ∧ s.job = .idle ∧
      t = initialised { s with host := rest }) ∨
    GoesOn s t := by
  cases step_next h with
  | reset d rest hh hr => exact .inl ⟨d, rest, hh, hr, rfl⟩
  | accept w rest t hh hj ha =>
    rcases acceptWord_next (s := { s with host := rest }) hj ha with ⟨i, hd, hi⟩ | ⟨-, rfl⟩
    · rw [decode_eq_legal_iff] at hd
      subst hd
      by_cases hinit : i = .init
      · subst hinit
        cases hi with
        | init => exact .inr (.inl ⟨rest, hh, hj, rfl⟩)
        | sequence _ _ _ hne => exact absurd rfl hne
      · exact .inr (.inr (.command i rest t hinit hj hi))
    · exact .inr (.inr (.illegal rest hj))
  | engine host' t hh he => exact .inr (.inr (.engine host' t he))

/-- The HOST asks for RESET or, with READY = 1, presents INIT in this turn. -/
def State.Restarts (s : State) : Prop :=
  ∃ d rest, s.host = d :: rest ∧ (d.reset = true ∨ (s.job = .idle ∧ d.cmd = some (encode .init)))

/-- RESET and INIT both leave CAUSE = NONE, and only they take the turn from the computation. -/
theorem restarts_or_goesOn {s t : State} (h : step s = .next t) :
    (s.Restarts ∧ t.cause = .none) ∨ GoesOn s t := by
  rcases step_cases h with ⟨d, rest, hh, hr, rfl⟩ | ⟨rest, hh, hj, rfl⟩ | hgo
  · exact .inl ⟨⟨d, rest, hh, .inl hr⟩, rfl⟩
  · exact .inl ⟨⟨_, rest, hh, .inr ⟨hj, rfl⟩⟩, rfl⟩
  · exact .inr hgo

/-! ### CAUSE (R20) -/

theorem GoesOn.cause_eq {s t : State} (h : GoesOn s t) (hc : s.cause ≠ .none) : t.cause = s.cause := by
  cases h with
  | command i rest t hi hj ha => exact ha.cause_eq hi hc
  | illegal rest hj => exact if_neg hc
  | engine host' t he => cases he <;> rfl

/-- Settles O30: a turn that goes on keeps a recorded CAUSE. -/
theorem causeStaysUntilInitOrReset : Obligations.CauseStaysUntilInitOrReset := fun s t h hc hne => by
  rcases restarts_or_goesOn h with ⟨hr, hnone⟩ | hgo
  · exact ⟨hnone, hr⟩
  · exact absurd (hgo.cause_eq hc) hne

/-! ### H and DIGEST (R13, R27, R91) -/

theorem GoesOn.h_eq {s t : State} (h : GoesOn s t) (hj : s.job = .idle) : t.h = s.h := by
  cases h with
  | command i rest t hi hj ha => exact ha.h_eq hi
  | illegal rest hj => rfl
  | engine host' t he =>
    cases he with
    | wait => rfl
    | data hb | padMore hb | padLast hb => cases hj.symm.trans hb

theorem GoesOn.digest_eq {s t : State} (h : GoesOn s t) (hj : s.job ≠ .padLast) : t.digest = s.digest := by
  cases h with
  | command i rest t hi hj ha => exact ha.digest_eq hi
  | illegal rest hj => rfl
  | engine host' t he =>
    cases he with
    | wait | data | padMore => rfl
    | padLast hb => exact absurd hb hj

/-- Settles O44: a turn that goes on writes H by the ENGINE alone, and DIGEST by its PAD_LAST step alone. -/
theorem hashAndDigestWriters : Obligations.HashAndDigestWriters := fun _ _ _ h =>
  (restarts_or_goesOn h).imp And.left fun hgo => ⟨hgo.h_eq, hgo.digest_eq⟩

/-! ### PHASE (R81) -/

/-- An error event keeps PHASE but for ending a computation in progress (R96). -/
theorem raiseError_phase_eq_or (c : Cause) (s : State) :
    (raiseError c s).phase = s.phase ∨ (s.phase = .streaming ∧ (raiseError c s).phase = .aborted) := by
  by_cases hp : s.phase = .streaming
  · exact .inr ⟨hp, if_pos hp⟩
  · exact .inl (if_neg hp)

theorem Accepted.phase_eq_or {s t : State} {i : Instr} (h : Accepted s i t) (hi : i ≠ .init) :
    t.phase = s.phase ∨ (s.phase = .streaming ∧ t.phase = .aborted) := by
  cases h with
  | init => exact absurd rfl hi
  | nop | update | finalize => exact .inl rfl
  | abort | sequence => exact raiseError_phase_eq_or _ s

/-- A turn that goes on keeps PHASE, or it is an error event that ends the computation, or the PAD_LAST
step that completes it. -/
theorem GoesOn.phase_cases {s t : State} (h : GoesOn s t) :
    t.phase = s.phase ∨ (s.phase = .streaming ∧ t.phase = .aborted ∧ s.job = .idle) ∨
    (t.phase = .finalized ∧ s.job = .padLast ∧ t.job = .idle ∧ t.digest = some t.h) := by
  cases h with
  | command i rest t hi hj ha =>
    exact (ha.phase_eq_or hi).imp_right fun ⟨hp, ht⟩ => .inl ⟨hp, ht, hj⟩
  | illegal rest hj =>
    exact (raiseError_phase_eq_or _ { s with host := rest }).imp_right fun ⟨hp, ht⟩ => .inl ⟨hp, ht, hj⟩
  | engine host' t he =>
    cases he with
    | wait | data | padMore => exact .inl rfl
    | padLast hj => exact .inr (.inr ⟨rfl, hj, rfl, rfl⟩)

/-- Settles O43: RESET, INIT, and the two ways in which a computation ends; the invariant gives the PHASE
that the PAD_LAST step starts from and the causes around the error event. -/
theorem phaseChanges : Obligations.PhaseChanges := fun s t hs h hne => by
  rcases step_cases h with ⟨d, rest, hh, hr, rfl⟩ | ⟨rest, hh, hj, rfl⟩ | hgo
  · exact .inl ⟨rfl, d, rest, hh, hr⟩
  · exact .inr (.inl ⟨rfl, hj, rest, hh⟩)
  · rcases hgo.phase_cases with heq | ⟨hp, ht, hj⟩ | ⟨ht, hj, htj, hd⟩
    · exact absurd heq hne
    · exact .inr (.inr (.inr ⟨hp, ht, hj, hs.streaming_cause hp, (inv_of_step hs h).aborted_cause ht⟩))
    · exact .inr (.inr (.inl ⟨hs.job_streaming (by simp [hj]), ht, hj, htj, hd⟩))

/-! ### The end of a computation (R122) -/

@[simp] theorem ended_eq_true (s : State) :
    s.ended = true ↔ s.job = .idle ∧ (s.phase = .finalized ∨ s.phase = .aborted) := by
  simp [State.ended]

theorem State.Inv.digestOut_of_finalized {s : State} (hs : s.Inv) (hp : s.phase = .finalized) :
    s.digestOut = some s.h :=
  (Machine.digestOut_of_finalized hp).trans (hs.finalized_digest hp)

/-- Settles O42: the invariant in FINALIZED, where the job is done and DIGEST is H, and in ABORTED. -/
theorem endedComputationOutcome : Obligations.EndedComputationOutcome := fun s hs => by
  refine ⟨fun he => ?_, fun hd => ?_⟩
  · obtain ⟨-, hp | hp⟩ := (ended_eq_true s).mp he
    · exact .inl ⟨hp, by simp [hs.digestOut_of_finalized hp]⟩
    · exact .inr ⟨hp, hs.aborted_cause hp, digestOut_of_ne_finalized (by simp [hp])⟩
  · have hp : s.phase = .finalized := of_decide_eq_true hd
    exact ⟨(ended_eq_true s).mpr ⟨hs.job_idle (by simp [hp]), .inl hp⟩, hs.digestOut_of_finalized hp⟩

/-! ### The ENGINE's progress (R86, R118) -/

/-- After an ENGINE step a second final block waits, or none does. -/
theorem Engine.job_eq {s t : State} (h : Engine s t) :
    t.job = if s.job = .padMore then .padLast else .idle := by
  cases h with
  | wait hj | data hj | padMore hj | padLast hj => simp [hj]

/-- With READY = 0 and no RESET asked the turn is the ENGINE's, and may use up an entry of the list. -/
theorem step_of_busy {s : State} (hr : s.noReset) (hj : s.job ≠ .idle) :
    ∃ host', (host' = s.host ∨ host' = s.host.tail) ∧ step s = engineStep { s with host := host' } := by
  cases hh : s.host with
  | nil => exact ⟨[], .inl rfl, (step_of_host_nil hh).trans (by rw [← hh])⟩
  | cons d rest =>
    obtain ⟨cmd, reset⟩ := d
    obtain rfl : reset = false := hr _ (by rw [hh]; exact List.mem_cons_self)
    cases cmd with
    | none => exact ⟨rest, .inr rfl, step_of_no_word hh⟩
    | some w => exact ⟨_, .inl rfl, (step_of_word_of_busy hh hj).trans (by rw [← hh])⟩

theorem exists_step_of_busy {s : State} (hr : s.noReset) (hj : s.job ≠ .idle) :
    ∃ t, step s = .next t ∧ t.noReset ∧ t.job = if s.job = .padMore then .padLast else .idle := by
  obtain ⟨host', hhost, hstep⟩ := step_of_busy hr hj
  obtain ⟨t, ht⟩ := engineStep_total { s with host := host' }
  refine ⟨t, hstep.trans ht, fun d hd => hr d ?_, (engineStep_next.mp ht).job_eq⟩
  rw [engineStep_host ht] at hd
  rcases hhost with rfl | rfl
  · exact hd
  · exact List.mem_of_mem_tail hd

@[simp] theorem runSteps_one (s : State) : runSteps 1 s = step s := by
  rw [runSteps_succ]
  cases step s <;> rfl

/-- Settles O45: one turn ends DATA and PAD_LAST, and leads from PAD_MORE to PAD_LAST. -/
theorem engineReachesReady : Obligations.EngineReachesReady := fun s _ hr hj => by
  obtain ⟨u, hu, hur, huj⟩ := exists_step_of_busy hr hj
  by_cases hmore : s.job = .padMore
  · rw [if_pos hmore] at huj ⊢
    obtain ⟨t, ht, -, htj⟩ := exists_step_of_busy hur (by simp [huj])
    refine ⟨t, ?_, (ready_eq_true t).mpr (by simpa [huj] using htj)⟩
    rw [runSteps_succ, hu, andThen_of_next, runSteps_one, ht]
  · rw [if_neg hmore] at huj ⊢
    exact ⟨u, (runSteps_one s).trans hu, (ready_eq_true u).mpr huj⟩

/-! ### FINALIZED and ABORTED last (R69, R91, R105) -/

/-- The HOST's drive asks for no RESET and presents no INIT. -/
def State.Quiet (s : State) : Prop := ∀ d ∈ s.host, d.reset = false ∧ d.cmd ≠ some (encode .init)

theorem State.Quiet.tail {s : State} (h : s.Quiet) : ∀ d ∈ s.host.tail, d.reset = false ∧
    d.cmd ≠ some (encode .init) := fun d hd => h d (List.mem_of_mem_tail hd)

/-- Outside STREAMING a word other than INIT's can write CAUSE alone, and only where it is NONE (R82). -/
theorem acceptWord_of_ne_streaming {w : Word} {s : State} (hj : s.job = .idle) (hp : s.phase ≠ .streaming)
    (hw : w ≠ encode .init) :
    ∃ c, acceptWord w s = .next { s with cause := c } ∧ (s.cause ≠ .none → c = s.cause) := by
  have raised (c : Cause) :
      ∃ c', (.next (raiseError c s) : Result) = .next { s with cause := c' } ∧
        (s.cause ≠ .none → c' = s.cause) :=
    ⟨_, congrArg _ (raiseError_of_ne_streaming hp c), fun hc => if_neg hc⟩
  cases hd : decode w with
  | illegal why =>
    rw [acceptWord_of_instr?_eq_none (by rw [hd]; rfl), execIllegal_of_idle hj]
    exact raised _
  | legal i =>
    rw [acceptWord_of_legal hd]
    by_cases hn : i = .nop
    · subst hn
      exact ⟨s.cause, nopWritesNothing s hj, fun _ => rfl⟩
    · have hi : i ≠ .init := fun hi => hw (by rw [← hi]; exact (decode_eq_legal_iff w i).mp hd)
      rw [exec_of_ne_streaming (needs_streaming hn hi) hj hp]
      exact raised _

theorem step_of_quiet {s : State} (hj : s.job = .idle) (hp : s.phase ≠ .streaming) (hq : s.Quiet) :
    ∃ c, step s = .next { s with cause := c, host := s.host.tail } ∧ (s.cause ≠ .none → c = s.cause) := by
  cases hh : s.host with
  | nil =>
    refine ⟨s.cause, ?_, fun _ => rfl⟩
    rw [step_of_host_nil hh, engineStep_of_idle hj, List.tail_nil, ← hh]
  | cons d rest =>
    obtain ⟨cmd, reset⟩ := d
    obtain ⟨hr, hcmd⟩ := hq _ (by rw [hh]; exact List.mem_cons_self)
    obtain rfl : reset = false := hr
    cases cmd with
    | none => exact ⟨s.cause, (step_of_no_word hh).trans (engineStep_of_idle hj), fun _ => rfl⟩
    | some w =>
      rw [step_of_word_of_idle hh hj]
      exact acceptWord_of_ne_streaming (s := { s with host := rest }) hj hp (fun hw => hcmd (congrArg _ hw))

/-- Any number of quiet turns outside STREAMING can record a first cause, and no more. -/
theorem runSteps_of_quiet (k : Nat) {s : State} (hj : s.job = .idle) (hp : s.phase ≠ .streaming)
    (hq : s.Quiet) :
    ∃ c, runSteps k s = .next { s with cause := c, host := s.host.drop k } ∧
      (s.cause ≠ .none → c = s.cause) := by
  induction k generalizing s with
  | zero => exact ⟨s.cause, rfl, fun _ => rfl⟩
  | succ k ih =>
    obtain ⟨c, hstep, hc⟩ := step_of_quiet hj hp hq
    obtain ⟨c', hrun, hc'⟩ := ih (s := { s with cause := c, host := s.host.tail }) hj hp hq.tail
    refine ⟨c', ?_, fun hne => ?_⟩
    · rw [runSteps_succ, hstep, andThen_of_next, hrun, List.drop_tail]
    · have hcs := hc hne
      exact (hc' (by simpa [hcs] using hne)).trans hcs

/-- Settles O50: in ABORTED a cause is recorded already. -/
theorem abortedIsTerminal : Obligations.AbortedIsTerminal := fun s k hs hp hq => by
  have hne : s.phase ≠ .streaming := by simp [hp]
  obtain ⟨c, hrun, hc⟩ := runSteps_of_quiet k (hs.job_idle hne) hne hq
  rw [hrun, hc (hs.aborted_cause hp)]

/-- Settles O51: the quiet turns write neither PHASE, JOB nor DIGEST. -/
theorem digestImmutableWhileFinalized : Obligations.DigestImmutableWhileFinalized := fun s k hs hp hq => by
  have hne : s.phase ≠ .streaming := by simp [hp]
  have hj := hs.job_idle hne
  obtain ⟨c, hrun, -⟩ := runSteps_of_quiet k hj hne hq
  refine ⟨_, hrun, hp, hj, rfl, ?_⟩
  change s.digestOut ≠ none
  simp [hs.digestOut_of_finalized hp]

end Sys2Proof.Machine
end

section
/-! PROOFS. BUF as a list of bytes, the padding invariant (O38), and the padded message and its blocks
(O18); spec/40_streamer.md. -/

namespace Sys2Proof.Machine

/-! ### BUF as a list (R63, R65 to R67) -/

theorem take_succ_set {l : List Byte} {i : Nat} (hi : i < l.length) (b : Byte) :
    (l.set i b).take (i + 1) = l.take i ++ [b] := by
  rw [List.take_succ_eq_append_getElem (by rwa [List.length_set]), List.take_set_of_le (Nat.le_refl i),
    List.getElem_set_self]

/-- Bytes written at i stand between the i bytes before them and the rest. -/
theorem writeBytes_toList (bs : List Byte) (buf : Vector Byte 64) (i : Nat) (h : i + bs.length ≤ 64) :
    (writeBytes buf i bs).toList = buf.toList.take i ++ bs ++ buf.toList.drop (i + bs.length) := by
  induction bs generalizing buf i with
  | nil => simp [writeBytes]
  | cons b bs ih =>
    rw [List.length_cons] at h
    have hi : i < buf.toList.length := by rw [Vector.length_toList]; omega
    rw [writeBytes, ih _ _ (by omega), Vector.toList_setIfInBounds, take_succ_set hi,
      List.drop_set_of_lt (by omega), List.length_cons, Nat.add_right_comm, Nat.add_assoc]
    simp

/-- 0x80 at n and zeros to the end of BUF (R63). -/
theorem marker_toList {n : Nat} (hn : n < 64) (buf : Vector Byte 64) :
    (writeBytes buf n (0x80 :: List.replicate (63 - n) 0x00)).toList =
      buf.toList.take n ++ 0x80 :: List.replicate (63 - n) 0x00 := by
  have hlen : n + (0x80 :: List.replicate (63 - n) (0x00 : Byte)).length = 64 := by
    rw [List.length_cons, List.length_replicate]; omega
  rw [writeBytes_toList _ _ _ (Nat.le_of_eq hlen), hlen, List.drop_of_length_le (by simp), List.append_nil]

/-- The length field at the end of BUF (R65). -/
theorem lengthBytes_toList (len : Dword) (buf : Vector Byte 64) :
    (writeBytes buf 56 (be64Bytes len)).toList = buf.toList.take 56 ++ be64Bytes len := by
  rw [writeBytes_toList _ _ _ (by simp), be64Bytes_length, List.drop_of_length_le (by simp),
    List.append_nil]

/-- The one final block (R65, R66). -/
theorem padFinal_toList_of_le {n : Nat} (hn : n ≤ 55) (len : Dword) (buf : Vector Byte 64) :
    (padFinal n len buf).toList =
      buf.toList.take n ++ 0x80 :: List.replicate (55 - n) 0x00 ++ be64Bytes len := by
  have htake : 56 - n = (55 - n) + 1 := by omega
  dsimp only [padFinal]
  rw [if_pos hn, lengthBytes_toList, marker_toList (by omega), List.take_append, List.take_take,
    List.length_take, Vector.length_toList, Nat.min_eq_left (by omega : n ≤ 64),
    Nat.min_eq_right (by omega : n ≤ 56), htake, List.take_succ_cons, List.take_replicate,
    Nat.min_eq_left (by omega)]

/-- The first of two final blocks (R67). -/
theorem padFinal_toList_of_gt {n : Nat} (h55 : 55 < n) (hn : n < 64) (len : Dword)
    (buf : Vector Byte 64) :
    (padFinal n len buf).toList = buf.toList.take n ++ 0x80 :: List.replicate (63 - n) 0x00 := by
  dsimp only [padFinal]
  rw [if_neg (by omega), marker_toList hn]

/-- The second of two final blocks (R67, R88). -/
theorem padSecond_toList (len : Dword) (buf : Vector Byte 64) :
    (padSecond len buf).toList = List.replicate 56 0x00 ++ be64Bytes len := by
  rw [padSecond, lengthBytes_toList, writeBytes_toList _ _ _ (by simp)]
  simp

/-! ### The padding invariant (R17, R65 to R67) -/

/-- Where no final block waits there is no padding to speak of. -/
theorem padInv_of_no_final {s : State} (hl : s.job ≠ .padLast) (hm : s.job ≠ .padMore) : s.PadInv :=
  ⟨fun h => absurd h hl, fun h => absurd h hl, fun h => absurd h hl, fun h => absurd h hm⟩

/-- What FINALIZE writes after the message's last bytes is the padding (R63). -/
theorem padInv_padded {s : State} (hs : s.Inv) (hj : s.job = .idle) (hp : s.phase = .streaming) :
    (padded s).PadInv := by
  obtain ⟨hlt, hcount⟩ := hs.fill_of_streaming hj hp
  have hlen : (s.buf.toList.take s.fill.toNat).length = s.fill.toNat := by
    rw [List.length_take, Vector.length_toList]; omega
  by_cases h55 : s.fill.toNat ≤ 55
  · have hbuf : (padded s).buf.toList = _ := padFinal_toList_of_le h55 (lengthField s.byteCount) s.buf
    have hmarker : (0x80 :: List.replicate (55 - s.fill.toNat) (0x00 : Byte)).length =
        56 - s.fill.toNat := by
      rw [List.length_cons, List.length_replicate]; omega
    exact
      { last_length := fun _ => by
          rw [hbuf, List.drop_left' (by rw [List.length_append, hlen, hmarker]; omega)]
          rfl
        last_marker := fun _ _ => by
          rw [hbuf, padded_byteCount, hcount, List.append_assoc, List.drop_left' hlen,
            List.take_left' hmarker]
        last_zeros := fun _ h56 => by
          rw [padded_byteCount] at h56
          omega
        first_marker := by simp [h55] }
  · have hbuf : (padded s).buf.toList = _ :=
      padFinal_toList_of_gt (Nat.lt_of_not_le h55) hlt (lengthField s.byteCount) s.buf
    exact
      { last_length := by simp [h55]
        last_marker := by simp [h55]
        last_zeros := by simp [h55]
        first_marker := fun _ => by rw [hbuf, padded_byteCount, hcount, List.drop_left' hlen] }

/-- The PAD_MORE follow-up builds the second block of a message with n ≥ 56 (R67, R88). -/
theorem padInv_padMoreFollowup {s : State} (h56 : 56 ≤ s.byteCount.toNat % 64) :
    (padMoreFollowup s).PadInv := by
  have hbuf : (padMoreFollowup s).buf.toList = _ := padSecond_toList (lengthField s.byteCount) s.buf
  exact
    { last_length := fun _ => by rw [hbuf, List.drop_left' (by simp), padMoreFollowup_byteCount]
      last_marker := fun _ h55 => by
        rw [padMoreFollowup_byteCount] at h55
        omega
      last_zeros := fun _ _ => by rw [hbuf, List.take_left' (by simp)]
      first_marker := by simp }

theorem Accepted.padInv {s t : State} {i : Instr} (h : Accepted s i t) (hs : s.Inv) (hj : s.job = .idle) :
    t.PadInv := by
  cases h with
  | nop => exact padInv_of_no_final (by simp [hj]) (by simp [hj])
  | init => exact padInv_of_no_final (by simp [initialised]) (by simp [initialised])
  | update b hp hlt =>
    exact padInv_of_no_final (by rw [appended_job hj hlt]; split <;> simp)
      (by rw [appended_job hj hlt]; split <;> simp)
  | finalize hp hlt => exact padInv_padded hs hj hp
  | abort | sequence => exact padInv_of_no_final (by simp [hj]) (by simp [hj])

theorem Engine.padInv {s t : State} (h : Engine s t) (hs : s.Inv) : t.PadInv := by
  cases h with
  | wait hj => exact padInv_of_no_final (by simp [hj]) (by simp [hj])
  | data | padLast => exact padInv_of_no_final (by simp) (by simp)
  | padMore hj =>
    have hcount := hs.count_fill (hs.job_streaming (by simp [hj]))
    rw [hj] at hcount
    exact padInv_padMoreFollowup (s := blockStep s) hcount

/-- Settles O38: FINALIZE and the PAD_MORE follow-up write the padding, and after any other turn no final
block waits. -/
theorem stepKeepsPadInv : Obligations.StepKeepsPadInv := fun s t hs _ h => by
  cases step_next h with
  | reset => exact padInv_of_no_final (by simp) (by simp)
  | accept w rest t hh hj ha =>
    rcases acceptWord_next (s := { s with host := rest }) hj ha with ⟨i, -, hi⟩ | ⟨-, rfl⟩
    · exact hi.padInv (hs.with_host rest) hj
    · exact padInv_of_no_final (by simp [hj]) (by simp [hj])
  | engine host' t _ he => exact he.padInv (hs.with_host host')

/-! ### The padded message (R68) -/

/-- Z is the least number of zeros that fills the last block. -/
theorem zeroCount_fills (n : Nat) : (n + 1 + zeroCount n + 8) % 64 = 0 := by
  unfold zeroCount
  omega

theorem zeroCount_le {n z : Nat} (h : (n + 1 + z + 8) % 64 = 0) : zeroCount n ≤ z := by
  unfold zeroCount
  omega

theorem paddedMessage_length (m : List Byte) :
    (paddedMessage m).length = m.length + 1 + zeroCount m.length + 8 := by
  simp only [paddedMessage, List.length_append, List.length_cons, List.length_replicate,
    be64Bytes_length]
  omega

/-- The data blocks, and one or two final blocks. -/
theorem paddedMessage_length_div (m : List Byte) :
    (paddedMessage m).length / 64 = m.length / 64 + if m.length % 64 ≤ 55 then 1 else 2 := by
  rw [paddedMessage_length, zeroCount]
  split <;> omega

/-! ### Blocks of a byte string (R11) -/

@[simp] theorem blocksOf_length (n : Nat) (m : List Byte) : (blocksOf n m).length = n := by
  induction n generalizing m with
  | zero => rfl
  | succ n ih => rw [blocksOf, List.length_cons, ih]

theorem blocksOf_flatten (n : Nat) (m : List Byte) : (blocksOf n m).flatten = m.take (64 * n) := by
  induction n generalizing m with
  | zero => rfl
  | succ n ih => rw [blocksOf, List.flatten_cons, ih, ← List.take_add, Nat.mul_succ, Nat.add_comm 64]

theorem length_of_mem_blocksOf {n : Nat} {m b : List Byte} (hm : 64 * n ≤ m.length)
    (hb : b ∈ blocksOf n m) : b.length = 64 := by
  induction n generalizing m with
  | zero => cases hb
  | succ n ih =>
    rcases List.mem_cons.mp hb with rfl | hb
    · rw [List.length_take]; omega
    · exact ih (by rw [List.length_drop]; omega) hb

/-- Settles O18: the length is Z's doing, and the blocks cut a whole number of blocks in order. -/
theorem paddedMessageShape : Obligations.PaddedMessageShape := fun m => by
  have hfills := zeroCount_fills m.length
  have hlen := paddedMessage_length m
  refine ⟨by omega, by omega, ⟨zeroCount m.length, by simp [paddedMessage], hfills, fun _ => zeroCount_le⟩,
    ?_, ?_, fun b hb => length_of_mem_blocksOf (by omega) hb⟩
  · rw [messageBlocks, blocksOf_length, paddedMessage_length_div]
  · rw [messageBlocks, blocksOf_flatten, List.take_of_length_le (by omega)]

end Sys2Proof.Machine
end

section
/-! PROOFS. The 16-word window (O23): a list of schedule words grows by its last 16 alone;
spec/41_scheduler.md. -/

namespace Sys2Proof.Machine

/-- The recurrence at t reads no word before t - 16, so with 16 words after it the first word is not
read (R71). -/
theorem nextWord_cons {w : List Word} (hw : 16 ≤ w.length) (x : Word) :
    nextWord (x :: w) = x :: nextWord w := by
  have skip (k : Nat) (hk : k ≤ 16) : (x :: w).getD (w.length + 1 - k) 0 = w.getD (w.length - k) 0 := by
    rw [Nat.sub_add_comm (by omega), List.getD_cons_succ]
  simp only [nextWord, List.length_cons, List.cons_append, skip 3 (by decide), skip 8 (by decide),
    skip 14 (by decide), skip 16 (by decide)]

theorem moreWords_cons {w : List Word} (hw : 16 ≤ w.length) (n : Nat) (x : Word) :
    moreWords n (x :: w) = x :: moreWords n w := by
  induction n generalizing w with
  | zero => rfl
  | succ n ih => rw [moreWords, nextWord_cons hw, ih (by rw [nextWord_length]; omega), moreWords]

@[simp] theorem slideWindow_length (win : List Word) : (slideWindow win).length = win.length := by
  rw [slideWindow, List.length_drop, nextWord_length, Nat.add_sub_cancel]

/-- A full window's expansion is its first word, and then the expansion of the window moved on (R73). -/
theorem moreWords_succ_of_window {win : List Word} (hw : win.length = 16) (n : Nat) :
    moreWords (n + 1) win = win.headD 0 :: moreWords n (slideWindow win) := by
  have hnext : nextWord win = win.headD 0 :: slideWindow win := by
    obtain ⟨x, rest, rfl⟩ := List.exists_cons_of_length_eq_add_one hw
    rfl
  rw [moreWords, hnext, moreWords_cons (Nat.le_of_eq ((slideWindow_length win).trans hw).symm)]

/-- The rounds over a moving window are the rounds over the words it runs through. -/
theorem windowRounds_eq (n t : Nat) (r : Words5) {win : List Word} (hw : win.length = 16) :
    windowRounds n t r win = roundsFrom t r ((moreWords n win).take n) := by
  induction n generalizing t r win with
  | zero => rw [List.take_zero]; rfl
  | succ n ih =>
    rw [windowRounds, ih _ _ (by rw [slideWindow_length, hw]), moreWords_succ_of_window hw,
      List.take_succ_cons, roundsFrom]

theorem moreWords_add (m n : Nat) (w : List Word) : moreWords (m + n) w = moreWords n (moreWords m w) := by
  induction m generalizing w with
  | zero => rw [Nat.zero_add]; rfl
  | succ m ih => rw [Nat.succ_add, moreWords, ih, moreWords]

/-- The expansion only adds words at the end. -/
theorem moreWords_take_length (n : Nat) (w : List Word) : (moreWords n w).take w.length = w := by
  induction n generalizing w with
  | zero => exact List.take_length
  | succ n ih =>
    calc (moreWords n (nextWord w)).take w.length
        = ((moreWords n (nextWord w)).take (nextWord w).length).take w.length := by
          rw [List.take_take, nextWord_length, Nat.min_eq_left (Nat.le_succ _)]
      _ = w := by rw [ih, nextWord_eq_append, List.take_left]

/-- Settles O23: 80 words from the window begin with the schedule's 80. -/
theorem windowedScheduleEquivalent : Obligations.WindowedScheduleEquivalent := fun h b hb => by
  have hwords : (moreWords 80 (blockWords b)).take 80 = schedule b := by
    rw [show 80 = 64 + 16 from rfl, moreWords_add]
    calc (moreWords 16 (schedule b)).take (64 + 16)
        = (moreWords 16 (schedule b)).take (schedule b).length := by rw [schedule_length hb]
      _ = schedule b := moreWords_take_length 16 (schedule b)
  rw [compressWindowed, windowRounds_eq 80 0 h (blockWords_length_of_block hb), hwords, compress]

end Sys2Proof.Machine
end

section
/-! PROOFS. Registers at ⊥ are never read (O40), so the values after reset never show (O41) and INIT forgets
the past (O49); spec/10_state.md section 3. -/

namespace Sys2Proof.Machine

/-! ### What two such states share -/

theorem State.SameButBottom.refl (s : State) : s.SameButBottom s :=
  ⟨rfl, rfl, rfl, rfl, rfl, fun _ => ⟨rfl, rfl, rfl⟩, fun _ _ _ => rfl⟩

theorem State.SameButBottom.with_host {s t : State} (h : s.SameButBottom t) (host : List HostDrive) :
    State.SameButBottom { s with host := host } { t with host := host } := { h with host := rfl }

/-- After INIT of any two states only BUF differs, and all of BUF is at ⊥ (R84). -/
theorem sameButBottom_initialised {s t : State} (hh : s.host = t.host) :
    (initialised s).SameButBottom (initialised t) where
  phase := rfl
  job := rfl
  cause := rfl
  digest := rfl
  host := hh
  data _ := ⟨rfl, rfl, rfl⟩
  buf i hi hd := by simp [initialised] at hd

section
variable {s t : State} (h : s.SameButBottom t)
include h

/-- No output reads a register at ⊥ (R30). -/
theorem State.SameButBottom.outputs_eq : s.outputs = t.outputs := by
  simp only [State.outputs, State.status, State.digestOut, State.ready, State.busy, State.dvalid,
    h.phase, h.job, h.cause, h.digest]

/-- While a block waits no register is at ⊥. -/
theorem State.SameButBottom.eq_of_busy (hs : s.Inv) (hj : s.job ≠ .idle) : s = t := by
  have hp := hs.job_streaming hj
  obtain ⟨hh, hfill, hcount⟩ := h.data (by simp [hp])
  have hbuf : s.buf = t.buf := Vector.ext fun i hi => h.buf i hi (by simp [hp, hj])
  have hrest := And.intro h.digest h.host
  cases s
  cases t
  rw [State.mk.injEq]
  exact ⟨hh, h.phase, h.job, h.cause, hbuf, hfill, hcount, hrest⟩

/-- An error event reads PHASE and CAUSE alone, and after it no computation is in progress (R96). -/
theorem State.SameButBottom.raiseError (c : Cause) : (raiseError c s).SameButBottom (raiseError c t) where
  phase := by simp [h.phase]
  job := h.job
  cause := by simp [h.cause]
  digest := h.digest
  host := h.host
  data hd := h.data (by
    rw [dataDefined_eq_true] at hd ⊢
    intro hp
    simp [hp] at hd)
  buf i hi hd := by
    by_cases hp : s.phase = .streaming <;> simp [hp] at hd

/-- In STREAMING, H, FILL and BYTECOUNT are the same in both states. -/
theorem State.SameButBottom.data_of_streaming (hp : s.phase = .streaming) :
    s.h = t.h ∧ s.fill = t.fill ∧ s.byteCount = t.byteCount := h.data (by simp [hp])

/-- UPDATE writes the one byte that becomes defined (R62). -/
theorem State.SameButBottom.appended (hj : s.job = .idle) (hp : s.phase = .streaming)
    (hlt : s.fill.toNat < 64) (b : Byte) : (appended b s).SameButBottom (appended b t) := by
  obtain ⟨hh, hfill, hcount⟩ := h.data_of_streaming hp
  exact
    { phase := h.phase
      job := by simp only [Machine.appended, hfill, h.job]
      cause := h.cause
      digest := h.digest
      host := h.host
      data := fun _ => ⟨hh, congrArg (· + 1) hfill, congrArg (· + 1) hcount⟩
      buf := fun i hi hd => by
        rw [appended_buf_getElem, appended_buf_getElem, ← hfill]
        by_cases heq : i = s.fill.toNat
        · rw [if_pos heq, if_pos heq]
        · rw [if_neg heq, if_neg heq]
          refine h.buf i hi ((byteDefined_eq_true s i).mpr ⟨hp, .inr ?_⟩)
          obtain ⟨-, hd⟩ := (byteDefined_eq_true _ i).mp hd
          rw [appended_job hj hlt, appended_fill_toNat hlt] at hd
          by_cases h63 : s.fill.toNat = 63
          · omega
          · rw [if_neg h63] at hd
            have := hd.resolve_left (by simp)
            omega }

/-- FINALIZE writes every byte from FILL's place on (R63). -/
theorem State.SameButBottom.padded (hp : s.phase = .streaming) (hlt : s.fill.toNat < 64) :
    (padded s).SameButBottom (padded t) := by
  obtain ⟨hh, hfill, hcount⟩ := h.data_of_streaming hp
  exact
    { phase := h.phase
      job := by rw [padded_job, padded_job, hfill]
      cause := h.cause
      digest := h.digest
      host := h.host
      data := fun _ => ⟨hh, rfl, hcount⟩
      buf := fun i hi _ => by
        rw [padded_buf_getElem hlt, padded_buf_getElem (by rwa [← hfill]), ← hfill, ← hcount]
        by_cases hi' : i < s.fill.toNat
        · rw [if_pos hi', if_pos hi']
          exact h.buf i hi ((byteDefined_eq_true s i).mpr ⟨hp, .inr hi'⟩)
        · rw [if_neg hi', if_neg hi'] }

end

/-! ### Every turn keeps it -/

theorem Accepted.sameButBottom {s s' t : State} {i : Instr} (ha : Accepted s i s')
    (h : s.SameButBottom t) (hj : s.job = .idle) : ∃ t', Accepted t i t' ∧ s'.SameButBottom t' := by
  cases ha with
  | nop => exact ⟨t, .nop, h⟩
  | init => exact ⟨_, .init, sameButBottom_initialised h.host⟩
  | update b hp hlt =>
    have hfill := (h.data_of_streaming hp).2.1
    exact ⟨_, .update b (h.phase ▸ hp) (hfill ▸ hlt), h.appended hj hp hlt b⟩
  | finalize hp hlt =>
    have hfill := (h.data_of_streaming hp).2.1
    exact ⟨_, .finalize (h.phase ▸ hp) (hfill ▸ hlt), h.padded hp hlt⟩
  | abort hp => exact ⟨_, .abort (h.phase ▸ hp), h.raiseError _⟩
  | sequence i hp hn hi => exact ⟨_, .sequence i (h.phase ▸ hp) hn hi, h.raiseError _⟩

theorem acceptWord_sameButBottom {s t : State} (hs : s.Inv) (h : s.SameButBottom t) (hj : s.job = .idle)
    (w : Word) :
    ∃ s' t', acceptWord w s = .next s' ∧ acceptWord w t = .next t' ∧ s'.SameButBottom t' := by
  have hjt : t.job = .idle := h.job ▸ hj
  cases hd : decode w with
  | legal i =>
    obtain ⟨s', hs'⟩ := exists_accepted hs hj i
    obtain ⟨t', ht', h'⟩ := hs'.sameButBottom h hj
    exact ⟨s', t', (acceptWord_of_legal hd s).trans (exec_of_accepted hj hs'),
      (acceptWord_of_legal hd t).trans (exec_of_accepted hjt ht'), h'⟩
  | illegal why =>
    have hw : (decode w).instr? = none := by rw [hd]; rfl
    exact ⟨_, _, (acceptWord_of_instr?_eq_none hw s).trans (execIllegal_of_idle hj),
      (acceptWord_of_instr?_eq_none hw t).trans (execIllegal_of_idle hjt), h.raiseError _⟩

theorem step_sameButBottom {s t : State} (hs : s.Inv) (h : s.SameButBottom t) :
    ∃ s' t', step s = .next s' ∧ step t = .next t' ∧ s'.SameButBottom t' := by
  by_cases hj : s.job = .idle
  · have hjt : t.job = .idle := h.job ▸ hj
    cases hh : s.host with
    | nil =>
      exact ⟨s, t, (step_of_host_nil hh).trans (engineStep_of_idle hj),
        (step_of_host_nil (h.host ▸ hh)).trans (engineStep_of_idle hjt), h⟩
    | cons d rest =>
      have hht : t.host = d :: rest := h.host ▸ hh
      obtain ⟨cmd, reset⟩ := d
      match reset, cmd with
      | true, _ => exact ⟨_, _, step_of_reset hh rfl, step_of_reset hht rfl, .refl _⟩
      | false, none =>
        exact ⟨_, _, (step_of_no_word hh).trans (engineStep_of_idle hj),
          (step_of_no_word hht).trans (engineStep_of_idle hjt), h.with_host rest⟩
      | false, some w =>
        rw [step_of_word_of_idle hh hj, step_of_word_of_idle hht hjt]
        exact acceptWord_sameButBottom (hs.with_host rest) (h.with_host rest) hj w
  · obtain rfl := h.eq_of_busy hs hj
    obtain ⟨s', hs'⟩ := step_total hs
    exact ⟨s', s', hs', hs', .refl s'⟩

/-- Settles O40: the outputs read no register at ⊥, and no turn lets one into another register. -/
theorem bottomIsNeverRead : Obligations.BottomIsNeverRead := fun _ _ hs _ h =>
  ⟨h.outputs_eq, step_sameButBottom hs h⟩

/-! ### Whole runs -/

/-- Two such states run side by side, and show the same after any number of turns. -/
theorem runSteps_sameButBottom (k : Nat) {s t : State} (hs : s.Inv) (h : s.SameButBottom t) :
    ∃ o, observe (runSteps k s) = some o ∧ observe (runSteps k t) = some o := by
  induction k generalizing s t with
  | zero => exact ⟨s.outputs, rfl, congrArg some h.outputs_eq.symm⟩
  | succ k ih =>
    obtain ⟨s', t', hs', ht', h'⟩ := step_sameButBottom hs h
    rw [runSteps_succ, runSteps_succ, hs', ht']
    exact ih (inv_of_step hs hs') h'

/-- Settles O41: in IDLE H, BUF, FILL and BYTECOUNT are at ⊥. -/
theorem resetValuesNeverShow : Obligations.ResetValuesNeverShow := fun h buf fill c host k =>
  runSteps_sameButBottom k (inv_of_idle rfl rfl rfl)
    { phase := rfl
      job := rfl
      cause := rfl
      digest := rfl
      host := rfl
      data := fun hd => by simp at hd
      buf := fun i hi hd => by simp at hd }

theorem step_of_init {s : State} {rest : List HostDrive}
    (hh : s.host = { cmd := some (encode .init), reset := false } :: rest) (hj : s.job = .idle) :
    step s = .next (initialised { s with host := rest }) :=
  calc step s
      = acceptWord (encode .init) { s with host := rest } := step_of_word_of_idle hh hj
    _ = exec .init { s with host := rest } := acceptWord_of_legal (decode_encode .init) _
    _ = _ := exec_init_of_idle hj

/-- Settles O49: the first turn is INIT's in both, and what differs after it is at ⊥. -/
theorem initForgetsThePast : Obligations.InitForgetsThePast := fun s₁ s₂ rest k hj₁ hj₂ hh₁ hh => by
  rw [runSteps_succ, runSteps_succ, step_of_init hh₁ hj₁, step_of_init (hh.trans hh₁) hj₂]
  obtain ⟨o, ho₁, ho₂⟩ := runSteps_sameButBottom k (inv_initialised { s₁ with host := rest })
    (sameButBottom_initialised (s := { s₁ with host := rest }) (t := { s₂ with host := rest }) rfl)
  exact ho₁.trans ho₂.symm

end Sys2Proof.Machine
end

section
/-! PROOFS. One transition per command agrees with the turns (O46); spec/43_orchestrator.md section 4. -/

namespace Sys2Proof.Machine

/-- A HOST that presents only words holds them while the ENGINE moves (R118). -/
theorem step_of_present_of_busy {s : State} {ws : List Word} (hh : s.host = present ws)
    (hj : s.job ≠ .idle) : step s = engineStep s := by
  cases ws with
  | nil => exact step_of_host_nil hh
  | cons w ws => exact step_of_word_of_busy hh hj

/-- Two ENGINE steps are enough for READY = 1, and the turns take as many of them as there is work for. -/
theorem exists_runSteps_engine {u : State} {ws : List Word} (hh : u.host = present ws) :
    ∃ k t, k ≤ 2 ∧ runSteps k u = .next t ∧ t.job = .idle ∧ t.host = present ws ∧
      andThen (engineStep u) engineStep = .next t := by
  by_cases hj : u.job = .idle
  · refine ⟨0, u, by decide, rfl, hj, hh, ?_⟩
    rw [engineStep_of_idle hj, andThen_of_next, engineStep_of_idle hj]
  · obtain ⟨v, hv⟩ := engineStep_total u
    have hvh : v.host = present ws := (engineStep_host hv).trans hh
    have hvj := (engineStep_next.mp hv).job_eq
    have hstep := (step_of_present_of_busy hh hj).trans hv
    by_cases hmore : u.job = .padMore
    · rw [if_pos hmore] at hvj
      obtain ⟨t, ht⟩ := engineStep_total v
      have htj := (engineStep_next.mp ht).job_eq
      refine ⟨2, t, Nat.le_refl 2, ?_, by simpa [hvj] using htj, (engineStep_host ht).trans hvh, ?_⟩
      · rw [runSteps_succ, hstep, andThen_of_next, runSteps_one,
          step_of_present_of_busy hvh (by simp [hvj]), ht]
      · rw [hv, andThen_of_next, ht]
    · rw [if_neg hmore] at hvj
      refine ⟨1, v, by decide, (runSteps_one u).trans hstep, hvj, hvh, ?_⟩
      rw [hv, andThen_of_next, engineStep_of_idle hvj]

theorem acceptWord_host {s t : State} {w : Word} (hj : s.job = .idle) (h : acceptWord w s = .next t) :
    t.host = s.host := by
  rcases acceptWord_next hj h with ⟨i, -, hi⟩ | ⟨-, rfl⟩
  · exact hi.host_eq
  · rfl

/-- Settles O46: one turn takes the word, and the turns after it are the ENGINE's. -/
theorem commandTransitionAgrees : Obligations.CommandTransitionAgrees := fun s w ws hs hj hh => by
  obtain ⟨u, hu⟩ := acceptWord_total (hs.with_host (present ws)) hj w
  obtain ⟨k, t, hk, hrun, htj, hth, ht⟩ :=
    exists_runSteps_engine (acceptWord_host (s := { s with host := present ws }) hj hu)
  have hstep : step s = .next u := (step_of_word_of_idle hh hj).trans hu
  refine ⟨k + 1, t, by omega, by omega, ?_, (ready_eq_true t).mpr htj, hth, ?_⟩
  · rw [runSteps_succ, hstep, andThen_of_next, hrun]
  · rw [commandTransition, hu, andThen_of_next, ht]

end Sys2Proof.Machine
end

section
/-! PROOFS. The digest of every message (O47): what the registers hold of the message so far, and how each
command's transition keeps it; and the two known digests (O48). spec/40_streamer.md section 5. -/

namespace Sys2Proof.Machine

/-! ### The blocks of a message, as the streamer cuts them (R68) -/

/-- Whole blocks first, and then the blocks of what is left. -/
theorem blocksOf_append (n k : Nat) {xs : List Byte} (hn : 64 * n ≤ xs.length) (ys : List Byte) :
    blocksOf (n + k) (xs ++ ys) = blocksOf n xs ++ blocksOf k (xs.drop (64 * n) ++ ys) := by
  induction n generalizing xs with
  | zero => rw [Nat.zero_add]; rfl
  | succ n ih =>
    rw [Nat.succ_add, blocksOf, blocksOf, List.take_append_of_le_length (by omega),
      List.drop_append_of_le_length (by omega), ih (by rw [List.length_drop]; omega), List.drop_drop,
      List.cons_append, Nat.mul_succ, Nat.add_comm 64]

theorem blocksOf_append_of_le {n : Nat} {xs : List Byte} (hn : 64 * n ≤ xs.length) (ys : List Byte) :
    blocksOf n (xs ++ ys) = blocksOf n xs := by
  rw [← Nat.add_zero n, blocksOf_append n 0 hn, blocksOf, List.append_nil, Nat.add_zero]

theorem blocksOf_one {b : List Byte} (hb : b.length = 64) : blocksOf 1 b = [b] := by
  rw [blocksOf, blocksOf, List.take_of_length_le (Nat.le_of_eq hb)]

theorem blocksOf_two {b c : List Byte} (hb : b.length = 64) (hc : c.length = 64) :
    blocksOf 2 (b ++ c) = [b, c] := by
  rw [blocksOf, List.take_left' hb, List.drop_left' hb, blocksOf_one hc]

theorem compressBlocks_append (h : Words5) (bs cs : List (List Byte)) :
    compressBlocks h (bs ++ cs) = compressBlocks (compressBlocks h bs) cs := List.foldl_append

/-- The bytes of a message after its last full block. -/
def lastBytes (m : List Byte) : List Byte := m.drop (64 * (m.length / 64))

theorem lastBytes_length (m : List Byte) : (lastBytes m).length = m.length % 64 := by
  rw [lastBytes, List.length_drop]
  omega

/-- The 8 bytes of 8N mod 2^64 (R64). -/
theorem lengthField_ofNat (n : Nat) : lengthField (BitVec.ofNat 64 n) = BitVec.ofNat 64 (8 * n) := by
  apply BitVec.eq_of_toNat_eq
  rw [lengthField_ofNat_toNat, BitVec.toNat_ofNat]

theorem messageBlocks_eq (m : List Byte) :
    messageBlocks m = blocksOf (m.length / 64) m ++
      blocksOf (if m.length % 64 ≤ 55 then 1 else 2)
        (lastBytes m ++ (0x80 :: List.replicate (zeroCount m.length) 0x00 ++
          be64Bytes (lengthField (BitVec.ofNat 64 m.length)))) := by
  rw [messageBlocks, paddedMessage_length_div, paddedMessage, List.append_assoc,
    blocksOf_append _ _ (by omega), lengthField_ofNat, lastBytes]

/-- One final block (R65, R66). -/
theorem messageBlocks_of_le {m : List Byte} (h : m.length % 64 ≤ 55) :
    messageBlocks m = blocksOf (m.length / 64) m ++
      [lastBytes m ++ 0x80 :: List.replicate (55 - m.length % 64) 0x00 ++
        be64Bytes (lengthField (BitVec.ofNat 64 m.length))] := by
  have hz : zeroCount m.length = 55 - m.length % 64 := by unfold zeroCount; omega
  rw [messageBlocks_eq, if_pos h, hz, ← List.append_assoc, blocksOf_one]
  simp only [List.length_append, lastBytes_length, List.length_cons, List.length_replicate,
    be64Bytes_length]
  omega

/-- Two final blocks, the second all padding (R67). -/
theorem messageBlocks_of_gt {m : List Byte} (h : 55 < m.length % 64) :
    messageBlocks m = blocksOf (m.length / 64) m ++
      [lastBytes m ++ 0x80 :: List.replicate (63 - m.length % 64) 0x00,
        List.replicate 56 0x00 ++ be64Bytes (lengthField (BitVec.ofNat 64 m.length))] := by
  have hz : zeroCount m.length = (63 - m.length % 64) + 56 := by unfold zeroCount; omega
  rw [messageBlocks_eq, if_neg (by omega), hz, ← List.replicate_append_replicate, ← List.cons_append,
    List.append_assoc, ← List.append_assoc, blocksOf_two]
  · simp only [List.length_append, lastBytes_length, List.length_cons, List.length_replicate]
    omega
  · simp

/-! ### What the registers hold of the message so far -/

/-- READY in STREAMING after INIT and the bytes of `m`: the full blocks are in H, and the bytes after them
in BUF (R62, R87). -/
structure Absorbed (m : List Byte) (s : State) : Prop where
  phase : s.phase = .streaming
  job : s.job = .idle
  fill : s.fill.toNat = m.length % 64
  byteCount : s.byteCount = BitVec.ofNat 64 m.length
  h : s.h = compressBlocks iv (blocksOf (m.length / 64) m)
  buf : s.buf.toList.take (m.length % 64) = lastBytes m

theorem absorbed_initialised (s : State) : Absorbed [] (initialised s) :=
  ⟨rfl, rfl, rfl, rfl, rfl, rfl⟩

theorem appended_buf_take {s : State} (hlt : s.fill.toNat < 64) (b : Byte) :
    (appended b s).buf.toList.take (s.fill.toNat + 1) = s.buf.toList.take s.fill.toNat ++ [b] := by
  change (s.buf.setIfInBounds s.fill.toNat b).toList.take _ = _
  rw [Vector.toList_setIfInBounds, take_succ_set (by simpa using hlt)]

/-- One transition for a command is its effect and at most two ENGINE steps (R92). -/
theorem commandTransition_of_accepted {s u : State} {i : Instr} (hj : s.job = .idle)
    (h : Accepted s i u) :
    commandTransition (encode i) s = andThen (engineStep u) engineStep := by
  rw [commandTransition, acceptWord_of_legal (decode_encode i), exec_of_accepted hj h, andThen_of_next]

/-- Where one ENGINE step reaches READY = 1 the second is a wait. -/
theorem engine_twice {u v : State} (h : Engine u v) (hj : v.job = .idle) :
    andThen (engineStep u) engineStep = .next v := by
  rw [engineStep_next.mpr h, andThen_of_next, engineStep_of_idle hj]

section
variable {m : List Byte} {s : State} (ha : Absorbed m s)
include ha

/-- UPDATE and the ENGINE step it may enable take one byte more (R62, R87). -/
theorem Absorbed.update (b : Byte) :
    ∃ t, commandTransition (encode (.update b)) s = .next t ∧ Absorbed (m ++ [b]) t := by
  have hlt : s.fill.toNat < 64 := by rw [ha.fill]; omega
  have hlen : (m ++ [b]).length = m.length + 1 := List.length_append
  have hcount : (appended b s).byteCount = BitVec.ofNat 64 (m ++ [b]).length := by
    rw [hlen, BitVec.ofNat_add, ← ha.byteCount]
    rfl
  have hbytes : (appended b s).buf.toList.take (m.length % 64 + 1) =
      m.drop (64 * (m.length / 64)) ++ [b] := by
    rw [← ha.fill, appended_buf_take hlt, ha.fill, ha.buf, lastBytes]
  have hjob := appended_job ha.job hlt b
  have hfill := appended_fill_toNat hlt b
  rw [ha.fill] at hjob hfill
  rw [commandTransition_of_accepted ha.job (.update b ha.phase hlt)]
  by_cases h63 : m.length % 64 = 63
  · rw [if_pos h63] at hjob
    have hdiv : (m ++ [b]).length / 64 = m.length / 64 + 1 := by omega
    have hblock : (appended b s).buf.toList = m.drop (64 * (m.length / 64)) ++ [b] := by
      rw [← hbytes, List.take_of_length_le (by rw [Vector.length_toList]; omega)]
    have hmod : (m ++ [b]).length % 64 = 0 := by omega
    refine ⟨_, engine_twice (.data hjob) rfl, ha.phase, rfl, hmod.symm, hcount, ?_, ?_⟩
    · rw [hdiv, blocksOf_append _ _ (by omega), ← hblock, blocksOf_one (Vector.length_toList),
        compressBlocks_append, ← ha.h]
      rfl
    · rw [hmod, lastBytes, List.drop_of_length_le (by omega)]
      rfl
  · rw [if_neg h63] at hjob
    have hdiv : (m ++ [b]).length / 64 = m.length / 64 := by omega
    have hmod : (m ++ [b]).length % 64 = m.length % 64 + 1 := by omega
    refine ⟨_, engine_twice (.wait hjob) hjob, ha.phase, hjob, hfill.trans hmod.symm, hcount, ?_, ?_⟩
    · rw [hdiv, blocksOf_append_of_le (by omega)]
      exact ha.h
    · rw [hmod, hbytes, lastBytes, hdiv, List.drop_append_of_le_length (by omega)]

/-- FINALIZE and the ENGINE steps it enables compress the final blocks (R63, R87 to R90). -/
theorem Absorbed.finalize :
    ∃ t, commandTransition (encode .finalize) s = .next t ∧ t.phase = .finalized ∧ t.cause = s.cause ∧
      t.digest = some (messageDigest m) ∧ t.byteCount = BitVec.ofNat 64 m.length := by
  have hlt : s.fill.toNat < 64 := by rw [ha.fill]; omega
  rw [commandTransition_of_accepted ha.job (.finalize ha.phase hlt)]
  by_cases h55 : s.fill.toNat ≤ 55
  · have hbuf : (padded s).buf.toList = _ := padFinal_toList_of_le h55 (lengthField s.byteCount) s.buf
    have hdigest : blockTransform s.h (padded s).buf.toList = messageDigest m := by
      rw [messageDigest, messageBlocks_of_le (by rwa [← ha.fill]), compressBlocks_append, ← ha.h, hbuf,
        ha.fill, ha.buf, ha.byteCount]
      rfl
    exact ⟨_, engine_twice (.padLast (if_pos h55)) rfl, rfl, rfl, congrArg some hdigest, ha.byteCount⟩
  · have hgt := Nat.lt_of_not_le h55
    have hbuf : (padded s).buf.toList = _ := padFinal_toList_of_gt hgt hlt (lengthField s.byteCount) s.buf
    have hsecond := padSecond_toList (lengthField s.byteCount) (padded s).buf
    have hdigest : blockTransform (blockTransform s.h (padded s).buf.toList)
        (padSecond (lengthField s.byteCount) (padded s).buf).toList = messageDigest m := by
      rw [messageDigest, messageBlocks_of_gt (by rwa [← ha.fill]), compressBlocks_append, ← ha.h,
        hsecond, hbuf, ha.fill, ha.buf, ha.byteCount]
      rfl
    refine ⟨padLastFollowup (blockStep (padMoreFollowup (blockStep (padded s)))), ?_, rfl, rfl,
      congrArg some hdigest, ha.byteCount⟩
    rw [engineStep_next.mpr (.padMore (if_neg h55)), andThen_of_next, engineStep_next.mpr (.padLast rfl)]

end

/-! ### The run of a whole message -/

/-- Some turns make a command's transition. -/
theorem exists_runSteps_command {s t : State} {i : Instr} {ws : List Word} (hs : s.Inv)
    (hj : s.job = .idle) (hh : s.host = present (encode i :: ws))
    (ht : commandTransition (encode i) { s with host := present ws } = .next t) :
    ∃ k, runSteps k s = .next t ∧ t.Inv ∧ t.ready = true ∧ t.host = present ws := by
  obtain ⟨k, t', -, -, hrun, hready, hhost, ht'⟩ := commandTransitionAgrees s (encode i) ws hs hj hh
  obtain rfl : t = t' := Host.Outcome.next.inj (ht.symm.trans ht')
  obtain ⟨u, hu, hui⟩ := exists_runSteps k hs
  obtain rfl : u = t := Host.Outcome.next.inj (hu.symm.trans hrun)
  exact ⟨k, hrun, hui, hready, hhost⟩

theorem Absorbed.with_host {m : List Byte} {s : State} (h : Absorbed m s) (host : List HostDrive) :
    Absorbed m { s with host := host } := { h with }

/-- One run after another. -/
theorem runSteps_trans {j k : Nat} {s t : State} {r : Result} (hj : runSteps j s = .next t)
    (hk : runSteps k t = r) : runSteps (j + k) s = r := by
  rw [runSteps_add, hj, andThen_of_next, hk]

/-- The UPDATEs of the bytes `m₂`, presented one by one (R56). -/
theorem exists_runSteps_updates {m₁ : List Byte} (m₂ : List Byte) {s : State} {ws : List Word}
    (hs : s.Inv) (ha : Absorbed m₁ s) (hh : s.host = present ((updatesOf m₂).map encode ++ ws)) :
    ∃ k t, runSteps k s = .next t ∧ t.Inv ∧ Absorbed (m₁ ++ m₂) t ∧ t.host = present ws := by
  induction m₂ generalizing m₁ s with
  | nil => exact ⟨0, s, rfl, hs, by rwa [List.append_nil], hh⟩
  | cons b m₂ ih =>
    obtain ⟨u, hu, hau⟩ := (ha.with_host _).update b
    obtain ⟨j, hj, hui, -, huh⟩ := exists_runSteps_command hs ha.job hh hu
    obtain ⟨k, t, hk, hti, hat, hth⟩ := ih hui hau huh
    exact ⟨j + k, t, runSteps_trans hj hk, hti, by rwa [List.append_cons], hth⟩

/-- Settles O47: INIT, the UPDATEs and FINALIZE, one run after another. -/
theorem digestOfEveryMessage : Obligations.DigestOfEveryMessage := fun s m hs hj hh => by
  have hwords : (digestOf m).map encode = encode .init :: ((updatesOf m).map encode ++ [encode .finalize]) := by
    rw [digestOf, List.map_cons, List.map_append, List.map_singleton]
  rw [hwords] at hh
  have hinit := commandTransition_of_accepted
    (s := { s with host := present ((updatesOf m).map encode ++ [encode .finalize]) }) hj .init
  obtain ⟨k₁, h₁, hi₁, -, hh₁⟩ := exists_runSteps_command hs hj hh
    (hinit.trans (engine_twice (.wait rfl) rfl))
  obtain ⟨k₂, u, h₂, hiu, hau, hhu⟩ := exists_runSteps_updates m hi₁ (absorbed_initialised _) hh₁
  rw [List.nil_append] at hau
  obtain ⟨t, ht, hphase, hcause, hdigest, hcount⟩ := (hau.with_host (present [])).finalize
  obtain ⟨k₃, h₃, -, hready, hht⟩ := exists_runSteps_command hiu hau.job hhu ht
  exact ⟨k₁ + k₂ + k₃, t, runSteps_trans (runSteps_trans h₁ h₂) h₃, hready, hht, hphase,
    hcause.trans (hiu.streaming_cause hau.phase), (digestOut_of_finalized hphase).trans hdigest, hcount⟩

/-! ### The source's digests (spec/95_test_vectors.md section 1) -/

/-- Settles O48: the digests of two fixed messages of one block each, evaluated. -/
theorem knownDigests : Obligations.KnownDigests := by
  unfold Obligations.KnownDigests
  decide +kernel

end Sys2Proof.Machine
end
